-- ==== Sys2Proof/Word.lean ====
section
/-! DEFINITION. The two word types of the machine (00_scope.md R10): an unsigned byte and an unsigned 16-bit word.
Their helpers (halves, pages, extensions) are in Sys2Proof/Machine/Bits.lean. -/

namespace Sys2Proof

/-- `u8` of rule R10: arithmetic on it is modulo 2^8. -/
abbrev Byte := BitVec 8

/-- `u16` of rule R10: arithmetic on it is modulo 2^16. -/
abbrev Word := BitVec 16

end Sys2Proof
end

