-- ==== Sys2Proof/Config.lean ====
section
/-! DEFINITION. The named parameters of 00_scope.md R9. The four that have a default are plain data, carried in the state
(log entry 3); the OPEN ones that are functions of a byte are opaque constants, of which nothing can be proved, so that a
proof holds for every value. `MAPPER` and `POWER_ON` are plain data and stand in Machine/State.lean. -/

namespace Sys2Proof

/-- `PAGE_PENALTY_POLICY` (R9, D6). -/
inductive PagePenaltyPolicy where
  | all
  | readsOnly
  deriving DecidableEq, Repr

/-- `PPU_UNDEFINED_PORT` (R9, D23). -/
inductive UndefinedPortPolicy where
  | fault
  | hw
  deriving DecidableEq, Repr

/-- `PPU_UNROUTED` (R9, D29). -/
inductive UnroutedPolicy where
  | fault
  | hwMirror
  deriving DecidableEq, Repr

/-- The value of `MAPPER.mirror_mode` (20_memory.md R53). -/
inductive MirrorMode where
  | horizontal
  | vertical
  deriving DecidableEq, Repr

/-- The parameters of R9 that have a default. -/
structure Params where
  pagePenalty : PagePenaltyPolicy
  /-- `CMP_WRITES_V` (R9, D7). -/
  cmpWritesV : Bool
  undefinedPort : UndefinedPortPolicy
  unrouted : UnroutedPolicy
  deriving DecidableEq, Repr

/-- The defaults of R9. -/
def Params.default : Params :=
  { pagePenalty := .all, cmpWritesV := true, undefinedPort := .fault, unrouted := .fault }

/-- A colour of the frame: red, green and blue bytes (51_ppu_rendering.md R178). -/
structure Rgb where
  r : Byte
  g : Byte
  b : Byte
  deriving DecidableEq, Repr, Inhabited

/-- `ILLEGAL_CYCLES`, OPEN (40_dispatch.md R77, D4; log entry 6). A FREE VALUE: nothing constrains it. -/
opaque Config.illegalCycles : Byte → Nat

/-- `SYS_PALETTE`, OPEN (51_ppu_rendering.md R178, D32; log entry 7). A FREE VALUE: nothing constrains it. -/
opaque Config.sysPalette : BitVec 6 → Rgb

/-- The byte a read of a write-only PPU port returns under `PPU_UNDEFINED_PORT = hw` (50_ppu_registers.md R171: "a draw
(a free byte, under no law)"; log entry 5), by the number of the draw. A FREE VALUE: nothing constrains it. -/
opaque Config.drawByte : Nat → Byte

end Sys2Proof
end

