-- ==== Sys2Proof/Machine/Bits.lean ====
section
/-! DEFINITION. The bit-field, byte-order and sign-extension helpers of 00_scope.md R10. -/

namespace Sys2Proof

/-- `hi(w) = w[15:8]` (R10). -/
def hiByte (w : Word) : Byte := w.extractLsb' 8 8

/-- `lo(w) = w[7:0]` (R10). -/
def loByte (w : Word) : Byte := w.extractLsb' 0 8

/-- `(h : l)`, the u16 `(h << 8) | l` (R10); little-endian data have `l` at the lower address (R45). -/
def joinBytes (h l : Byte) : Word := h ++ l

/-- `page(a) = a & 0xFF00` (R10). -/
def pageOf (a : Word) : Word := a &&& 0xFF00

/-- `zext_16(v)` (R10). -/
def zext16 (v : Byte) : Word := v.setWidth 16

/-- `sext_16(v)`: `v[7]` copied into bits 15..8 (R10). -/
def sext16 (v : Byte) : Word := v.signExtend 16

end Sys2Proof
end

