-- ==== Sys2Proof/Syntax.lean ====
section
/-! DEFINITION. The instructions of spec/opcode_table.json as syntax. A row of the table is one constructor of `Instr`
together with one operand form: the table has 57 mnemonics in 256 rows, and each mnemonic is one constructor, whose
operand says which of the mnemonic's rows it is. The 105 UNKNOWN rows differ only in their opcode byte, which is the
operand of `Instr.unknown`. -/

namespace Sys2Proof

/-- The fourteen addressing-mode tags of 30_encoding.md R62. -/
inductive Mode where
  | imp | acc | imm | zp0 | zpx | zpy | abs | abj | abx | aby | ind | izx | izy | rel
  deriving DecidableEq, Repr

/-- The operand of an instruction that goes through the operand accessor (41_addressing.md R94), as it stands in the
instruction's bytes: `b` a zero-page byte, `w` the little-endian word of operand bytes 1 and 2. -/
inductive Operand where
  /-- ACC: register A (R81). -/
  | acc
  /-- IMM: the byte itself (R82). -/
  | imm (v : Byte)
  /-- ZP0 (R83). -/
  | zp0 (b : Byte)
  /-- ZPX (R84). -/
  | zpx (b : Byte)
  /-- ZPY (R85). -/
  | zpy (b : Byte)
  /-- ABS (R86). -/
  | abs (w : Word)
  /-- ABX (R88). -/
  | abx (w : Word)
  /-- ABY (R89). -/
  | aby (w : Word)
  /-- IZX (R91). -/
  | izx (b : Byte)
  /-- IZY (R92). -/
  | izy (b : Byte)
  deriving DecidableEq, Repr

/-- The mode tag of an operand (R62). -/
def Operand.mode : Operand → Mode
  | .acc => .acc
  | .imm _ => .imm
  | .zp0 _ => .zp0
  | .zpx _ => .zpx
  | .zpy _ => .zpy
  | .abs _ => .abs
  | .abx _ => .abx
  | .aby _ => .aby
  | .izx _ => .izx
  | .izy _ => .izy

/-- The operand of JMP (45_branch_jump.md R141): a target word (ABJ, R87) or the address of a pointer (IND, R90). -/
inductive JumpOperand where
  | abj (w : Word)
  | ind (w : Word)
  deriving DecidableEq, Repr

/-- The mode tag of a jump operand (R62). -/
def JumpOperand.mode : JumpOperand → Mode
  | .abj _ => .abj
  | .ind _ => .ind

/-- One constructor per mnemonic of spec/opcode_table.json; the operand says which row of it. -/
inductive Instr where
  -- loads, stores, transfers (42_load_store_transfer.md)
  | lda (m : Operand) | ldx (m : Operand) | ldy (m : Operand)
  | sta (m : Operand) | stx (m : Operand) | sty (m : Operand)
  | tax | tay | txa | tya | tsx | txs
  -- arithmetic, compare, logic, increments (43_arith_logic.md)
  | adc (m : Operand) | sbc (m : Operand)
  | cmp (m : Operand) | cpx (m : Operand) | cpy (m : Operand)
  | and (m : Operand) | ora (m : Operand) | eor (m : Operand) | bit (m : Operand)
  | inc (m : Operand) | dec (m : Operand)
  | inx | iny | dex | dey
  -- shifts and rotates (44_shift_rotate.md)
  | asl (m : Operand) | lsr (m : Operand) | rol (m : Operand) | ror (m : Operand)
  -- branches, jumps, calls (45_branch_jump.md); `off` is the signed offset byte of REL
  | bcc (off : Byte) | bcs (off : Byte) | beq (off : Byte) | bne (off : Byte)
  | bmi (off : Byte) | bpl (off : Byte) | bvc (off : Byte) | bvs (off : Byte)
  | jmp (j : JumpOperand) | jsr (w : Word) | rts
  -- stack, flags, system (46_stack_flag_system.md)
  | pha | pla | php | plp | brk | rti
  | clc | sec | cli | sei | cld | sed | clv | nop
  -- the unknown opcodes (40_dispatch.md R77)
  | unknown (op : Byte)
  deriving DecidableEq, Repr

end Sys2Proof
end

