-- ==== Sys2Proof/WellFormed.lean ====
section
/-! DEFINITION. Which operand forms the opcode table has for each mnemonic (30_encoding.md R66, R67) and which bytes are
unknown opcodes (R68). `wellFormed i` says that `i` is a row of the table. -/

namespace Sys2Proof

/-- LDA, ADC, SBC, CMP, AND, ORA, EOR. -/
def accumulatorModes : List Mode := [.imm, .zp0, .zpx, .abs, .abx, .aby, .izx, .izy]

/-- LDX. -/
def ldxModes : List Mode := [.imm, .zp0, .zpy, .abs, .aby]

/-- LDY. -/
def ldyModes : List Mode := [.imm, .zp0, .zpx, .abs, .abx]

/-- STA. -/
def staModes : List Mode := [.zp0, .zpx, .abs, .abx, .aby, .izx, .izy]

/-- STX. -/
def stxModes : List Mode := [.zp0, .zpy, .abs]

/-- STY. -/
def styModes : List Mode := [.zp0, .zpx, .abs]

/-- CPX, CPY. -/
def indexCompareModes : List Mode := [.imm, .zp0, .abs]

/-- BIT. -/
def bitModes : List Mode := [.zp0, .abs]

/-- INC, DEC. -/
def incrementModes : List Mode := [.zp0, .zpx, .abs, .abx]

/-- ASL, LSR, ROL, ROR. -/
def shiftModes : List Mode := [.acc, .zp0, .zpx, .abs, .abx]

/-- The 105 unknown opcodes as rule R68 lists them, high nibbles 0 to 7. -/
def unknownOpcodesLow : List Byte :=
  [0x02, 0x03, 0x04, 0x07, 0x0B, 0x0C, 0x0F, 0x12, 0x13, 0x14, 0x17, 0x1A, 0x1B, 0x1C, 0x1F,
   0x22, 0x23, 0x27, 0x2B, 0x2F, 0x32, 0x33, 0x34, 0x37, 0x3A, 0x3B, 0x3C, 0x3F,
   0x42, 0x43, 0x44, 0x47, 0x4B, 0x4F, 0x52, 0x53, 0x54, 0x57, 0x5A, 0x5B, 0x5C, 0x5F,
   0x62, 0x63, 0x64, 0x67, 0x6B, 0x6F, 0x72, 0x73, 0x74, 0x77, 0x7A, 0x7B, 0x7C, 0x7F]

/-- The 105 unknown opcodes as rule R68 lists them, high nibbles 8 to F. -/
def unknownOpcodesHigh : List Byte :=
  [0x80, 0x82, 0x83, 0x87, 0x89, 0x8B, 0x8F, 0x92, 0x93, 0x97, 0x9B, 0x9C, 0x9E, 0x9F,
   0xA3, 0xA7, 0xAB, 0xAF, 0xB2, 0xB3, 0xB7, 0xBB, 0xBF, 0xC2, 0xC3, 0xC7, 0xCB, 0xCF,
   0xD2, 0xD3, 0xD4, 0xD7, 0xDA, 0xDB, 0xDC, 0xDF, 0xE2, 0xE3, 0xE7, 0xEB, 0xEF,
   0xF2, 0xF3, 0xF4, 0xF7, 0xFA, 0xFB, 0xFC, 0xFF]

/-- The unknown opcodes (R68). -/
def unknownOpcodes : List Byte := unknownOpcodesLow ++ unknownOpcodesHigh

/-- `i` is a row of spec/opcode_table.json: its operand form is one its mnemonic has, and an unknown opcode is one of
the 105 of rule R68. -/
def wellFormed : Instr → Bool
  | .lda m | .adc m | .sbc m | .cmp m | .and m | .ora m | .eor m => m.mode ∈ accumulatorModes
  | .ldx m => m.mode ∈ ldxModes
  | .ldy m => m.mode ∈ ldyModes
  | .sta m => m.mode ∈ staModes
  | .stx m => m.mode ∈ stxModes
  | .sty m => m.mode ∈ styModes
  | .cpx m | .cpy m => m.mode ∈ indexCompareModes
  | .bit m => m.mode ∈ bitModes
  | .inc m | .dec m => m.mode ∈ incrementModes
  | .asl m | .lsr m | .rol m | .ror m => m.mode ∈ shiftModes
  | .unknown op => op ∈ unknownOpcodes
  | .tax | .tay | .txa | .tya | .tsx | .txs | .inx | .iny | .dex | .dey
  | .bcc _ | .bcs _ | .beq _ | .bne _ | .bmi _ | .bpl _ | .bvc _ | .bvs _
  | .jmp _ | .jsr _ | .rts | .pha | .pla | .php | .plp | .brk | .rti
  | .clc | .sec | .cli | .sei | .cld | .sed | .clv | .nop => true

end Sys2Proof
end

