-- ==== Sys2Proof/Decode.lean ====
section
/-! DEFINITION. The dispatch table (30_encoding.md R67), the decoder over it, total on any bytes (R69), and the encoder. -/

namespace Sys2Proof

/-- What an opcode's operand bytes become (30_encoding.md R61, R62): nothing (IMP), an operand of the accessor in the given
mode, the target of a jump in the given mode, the target of JSR (ABJ), or a branch offset (REL). -/
inductive Form where
  | implied (i : Instr)
  | operand (mode : Mode) (f : Operand → Instr)
  | jump (mode : Mode)
  | call
  | branch (f : Byte → Instr)

/-- The mode tag of a form. -/
def Form.mode : Form → Mode
  | .implied _ => .imp
  | .operand m _ => m
  | .jump m => m
  | .call => .abj
  | .branch _ => .rel

/-- A row of the dispatch table: "each opcode maps to a triple — addressing mode, base cycle count, instruction handler"
(40_dispatch.md R73). -/
structure Row where
  opcode : Byte
  form : Form
  base : Nat

/-- Rule R67, opcodes 0x00 to 0x1F. -/
def dispatchRows01 : List Row :=
  [⟨0x00, .implied .brk, 7⟩,
   ⟨0x01, .operand .izx Instr.ora, 6⟩,
   ⟨0x05, .operand .zp0 Instr.ora, 3⟩,
   ⟨0x06, .operand .zp0 Instr.asl, 5⟩,
   ⟨0x08, .implied .php, 3⟩,
   ⟨0x09, .operand .imm Instr.ora, 2⟩,
   ⟨0x0A, .operand .acc Instr.asl, 2⟩,
   ⟨0x0D, .operand .abs Instr.ora, 4⟩,
   ⟨0x0E, .operand .abs Instr.asl, 6⟩,
   ⟨0x10, .branch Instr.bpl, 2⟩,
   ⟨0x11, .operand .izy Instr.ora, 5⟩,
   ⟨0x15, .operand .zpx Instr.ora, 4⟩,
   ⟨0x16, .operand .zpx Instr.asl, 6⟩,
   ⟨0x18, .implied .clc, 2⟩,
   ⟨0x19, .operand .aby Instr.ora, 4⟩,
   ⟨0x1D, .operand .abx Instr.ora, 4⟩,
   ⟨0x1E, .operand .abx Instr.asl, 7⟩]

/-- Rule R67, opcodes 0x20 to 0x3F. -/
def dispatchRows23 : List Row :=
  [⟨0x20, .call, 6⟩,
   ⟨0x21, .operand .izx Instr.and, 6⟩,
   ⟨0x24, .operand .zp0 Instr.bit, 3⟩,
   ⟨0x25, .operand .zp0 Instr.and, 3⟩,
   ⟨0x26, .operand .zp0 Instr.rol, 5⟩,
   ⟨0x28, .implied .plp, 4⟩,
   ⟨0x29, .operand .imm Instr.and, 2⟩,
   ⟨0x2A, .operand .acc Instr.rol, 2⟩,
   ⟨0x2C, .operand .abs Instr.bit, 4⟩,
   ⟨0x2D, .operand .abs Instr.and, 4⟩,
   ⟨0x2E, .operand .abs Instr.rol, 6⟩,
   ⟨0x30, .branch Instr.bmi, 2⟩,
   ⟨0x31, .operand .izy Instr.and, 5⟩,
   ⟨0x35, .operand .zpx Instr.and, 4⟩,
   ⟨0x36, .operand .zpx Instr.rol, 6⟩,
   ⟨0x38, .implied .sec, 2⟩,
   ⟨0x39, .operand .aby Instr.and, 4⟩,
   ⟨0x3D, .operand .abx Instr.and, 4⟩,
   ⟨0x3E, .operand .abx Instr.rol, 7⟩]

/-- Rule R67, opcodes 0x40 to 0x5F. -/
def dispatchRows45 : List Row :=
  [⟨0x40, .implied .rti, 6⟩,
   ⟨0x41, .operand .izx Instr.eor, 6⟩,
   ⟨0x45, .operand .zp0 Instr.eor, 3⟩,
   ⟨0x46, .operand .zp0 Instr.lsr, 5⟩,
   ⟨0x48, .implied .pha, 3⟩,
   ⟨0x49, .operand .imm Instr.eor, 2⟩,
   ⟨0x4A, .operand .acc Instr.lsr, 2⟩,
   ⟨0x4C, .jump .abj, 3⟩,
   ⟨0x4D, .operand .abs Instr.eor, 4⟩,
   ⟨0x4E, .operand .abs Instr.lsr, 6⟩,
   ⟨0x50, .branch Instr.bvc, 2⟩,
   ⟨0x51, .operand .izy Instr.eor, 5⟩,
   ⟨0x55, .operand .zpx Instr.eor, 4⟩,
   ⟨0x56, .operand .zpx Instr.lsr, 6⟩,
   ⟨0x58, .implied .cli, 2⟩,
   ⟨0x59, .operand .aby Instr.eor, 4⟩,
   ⟨0x5D, .operand .abx Instr.eor, 4⟩,
   ⟨0x5E, .operand .abx Instr.lsr, 7⟩]

/-- Rule R67, opcodes 0x60 to 0x7F. -/
def dispatchRows67 : List Row :=
  [⟨0x60, .implied .rts, 6⟩,
   ⟨0x61, .operand .izx Instr.adc, 6⟩,
   ⟨0x65, .operand .zp0 Instr.adc, 3⟩,
   ⟨0x66, .operand .zp0 Instr.ror, 5⟩,
   ⟨0x68, .implied .pla, 4⟩,
   ⟨0x69, .operand .imm Instr.adc, 2⟩,
   ⟨0x6A, .operand .acc Instr.ror, 2⟩,
   ⟨0x6C, .jump .ind, 5⟩,
   ⟨0x6D, .operand .abs Instr.adc, 4⟩,
   ⟨0x6E, .operand .abs Instr.ror, 6⟩,
   ⟨0x70, .branch Instr.bvs, 2⟩,
   ⟨0x71, .operand .izy Instr.adc, 5⟩,
   ⟨0x75, .operand .zpx Instr.adc, 4⟩,
   ⟨0x76, .operand .zpx Instr.ror, 6⟩,
   ⟨0x78, .implied .sei, 2⟩,
   ⟨0x79, .operand .aby Instr.adc, 4⟩,
   ⟨0x7D, .operand .abx Instr.adc, 4⟩,
   ⟨0x7E, .operand .abx Instr.ror, 7⟩]

/-- Rule R67, opcodes 0x80 to 0x9F. -/
def dispatchRows89 : List Row :=
  [⟨0x81, .operand .izx Instr.sta, 6⟩,
   ⟨0x84, .operand .zp0 Instr.sty, 3⟩,
   ⟨0x85, .operand .zp0 Instr.sta, 3⟩,
   ⟨0x86, .operand .zp0 Instr.stx, 3⟩,
   ⟨0x88, .implied .dey, 2⟩,
   ⟨0x8A, .implied .txa, 2⟩,
   ⟨0x8C, .operand .abs Instr.sty, 4⟩,
   ⟨0x8D, .operand .abs Instr.sta, 4⟩,
   ⟨0x8E, .operand .abs Instr.stx, 4⟩,
   ⟨0x90, .branch Instr.bcc, 2⟩,
   ⟨0x91, .operand .izy Instr.sta, 6⟩,
   ⟨0x94, .operand .zpx Instr.sty, 4⟩,
   ⟨0x95, .operand .zpx Instr.sta, 4⟩,
   ⟨0x96, .operand .zpy Instr.stx, 4⟩,
   ⟨0x98, .implied .tya, 2⟩,
   ⟨0x99, .operand .aby Instr.sta, 5⟩,
   ⟨0x9A, .implied .txs, 2⟩,
   ⟨0x9D, .operand .abx Instr.sta, 5⟩]

/-- Rule R67, opcodes 0xA0 to 0xBF. -/
def dispatchRowsAB : List Row :=
  [⟨0xA0, .operand .imm Instr.ldy, 2⟩,
   ⟨0xA1, .operand .izx Instr.lda, 6⟩,
   ⟨0xA2, .operand .imm Instr.ldx, 2⟩,
   ⟨0xA4, .operand .zp0 Instr.ldy, 3⟩,
   ⟨0xA5, .operand .zp0 Instr.lda, 3⟩,
   ⟨0xA6, .operand .zp0 Instr.ldx, 3⟩,
   ⟨0xA8, .implied .tay, 2⟩,
   ⟨0xA9, .operand .imm Instr.lda, 2⟩,
   ⟨0xAA, .implied .tax, 2⟩,
   ⟨0xAC, .operand .abs Instr.ldy, 4⟩,
   ⟨0xAD, .operand .abs Instr.lda, 4⟩,
   ⟨0xAE, .operand .abs Instr.ldx, 4⟩,
   ⟨0xB0, .branch Instr.bcs, 2⟩,
   ⟨0xB1, .operand .izy Instr.lda, 5⟩,
   ⟨0xB4, .operand .zpx Instr.ldy, 4⟩,
   ⟨0xB5, .operand .zpx Instr.lda, 4⟩,
   ⟨0xB6, .operand .zpy Instr.ldx, 4⟩,
   ⟨0xB8, .implied .clv, 2⟩,
   ⟨0xB9, .operand .aby Instr.lda, 4⟩,
   ⟨0xBA, .implied .tsx, 2⟩,
   ⟨0xBC, .operand .abx Instr.ldy, 4⟩,
   ⟨0xBD, .operand .abx Instr.lda, 4⟩,
   ⟨0xBE, .operand .aby Instr.ldx, 4⟩]

/-- Rule R67, opcodes 0xC0 to 0xDF. -/
def dispatchRowsCD : List Row :=
  [⟨0xC0, .operand .imm Instr.cpy, 2⟩,
   ⟨0xC1, .operand .izx Instr.cmp, 6⟩,
   ⟨0xC4, .operand .zp0 Instr.cpy, 3⟩,
   ⟨0xC5, .operand .zp0 Instr.cmp, 3⟩,
   ⟨0xC6, .operand .zp0 Instr.dec, 5⟩,
   ⟨0xC8, .implied .iny, 2⟩,
   ⟨0xC9, .operand .imm Instr.cmp, 2⟩,
   ⟨0xCA, .implied .dex, 2⟩,
   ⟨0xCC, .operand .abs Instr.cpy, 4⟩,
   ⟨0xCD, .operand .abs Instr.cmp, 4⟩,
   ⟨0xCE, .operand .abs Instr.dec, 6⟩,
   ⟨0xD0, .branch Instr.bne, 2⟩,
   ⟨0xD1, .operand .izy Instr.cmp, 5⟩,
   ⟨0xD5, .operand .zpx Instr.cmp, 4⟩,
   ⟨0xD6, .operand .zpx Instr.dec, 6⟩,
   ⟨0xD8, .implied .cld, 2⟩,
   ⟨0xD9, .operand .aby Instr.cmp, 4⟩,
   ⟨0xDD, .operand .abx Instr.cmp, 4⟩,
   ⟨0xDE, .operand .abx Instr.dec, 7⟩]

/-- Rule R67, opcodes 0xE0 to 0xFF. -/
def dispatchRowsEF : List Row :=
  [⟨0xE0, .operand .imm Instr.cpx, 2⟩,
   ⟨0xE1, .operand .izx Instr.sbc, 6⟩,
   ⟨0xE4, .operand .zp0 Instr.cpx, 3⟩,
   ⟨0xE5, .operand .zp0 Instr.sbc, 3⟩,
   ⟨0xE6, .operand .zp0 Instr.inc, 5⟩,
   ⟨0xE8, .implied .inx, 2⟩,
   ⟨0xE9, .operand .imm Instr.sbc, 2⟩,
   ⟨0xEA, .implied .nop, 2⟩,
   ⟨0xEC, .operand .abs Instr.cpx, 4⟩,
   ⟨0xED, .operand .abs Instr.sbc, 4⟩,
   ⟨0xEE, .operand .abs Instr.inc, 6⟩,
   ⟨0xF0, .branch Instr.beq, 2⟩,
   ⟨0xF1, .operand .izy Instr.sbc, 5⟩,
   ⟨0xF5, .operand .zpx Instr.sbc, 4⟩,
   ⟨0xF6, .operand .zpx Instr.inc, 6⟩,
   ⟨0xF8, .implied .sed, 2⟩,
   ⟨0xF9, .operand .aby Instr.sbc, 4⟩,
   ⟨0xFD, .operand .abx Instr.sbc, 4⟩,
   ⟨0xFE, .operand .abx Instr.inc, 7⟩]

/-- `TABLE`, the dispatch table of rule R67: 151 rows. -/
def dispatchTable : List Row :=
  dispatchRows01 ++ dispatchRows23 ++ dispatchRows45 ++ dispatchRows67 ++
  dispatchRows89 ++ dispatchRowsAB ++ dispatchRowsCD ++ dispatchRowsEF

/-- The row of an opcode, if it is documented. -/
def findRow (op : Byte) : List Row → Option Row
  | [] => none
  | r :: rest => if r.opcode = op then some r else findRow op rest

/-- `TABLE[op]`; none for an unknown opcode (R68). -/
def lookupRow (op : Byte) : Option Row := findRow op dispatchTable

/-- `BASE_CYCLES(op)` of a documented opcode (R67), `ILLEGAL_CYCLES(op)` of an unknown one (40_dispatch.md R77). -/
def baseCyclesOf (op : Byte) : Nat :=
  match lookupRow op with
  | some r => r.base
  | none => Config.illegalCycles op

/-- How many operand bytes a mode consumes (R62). -/
def Mode.operandBytes : Mode → Nat
  | .imp | .acc => 0
  | .imm | .zp0 | .zpx | .zpy | .izx | .izy | .rel => 1
  | .abs | .abj | .abx | .aby | .ind => 2

/-- How many operand bytes follow an opcode: its mode's (R64), none for an unknown opcode (R68). -/
def operandBytesOf (op : Byte) : Nat :=
  match lookupRow op with
  | some r => r.form.mode.operandBytes
  | none => 0

/-- Why the decoder refuses: never an opcode byte (R69), only bytes that end too early. -/
inductive DecodeError where
  /-- There is no byte at all. -/
  | noOpcode
  /-- The operand bytes of the opcode are not all there. -/
  | truncated (op : Byte)
  deriving DecidableEq, Repr

/-- What the decoder answers: an instruction and the bytes after it, or a refusal by name. -/
inductive Decoded where
  | ok (i : Instr) (rest : List Byte)
  | refused (e : DecodeError)
  deriving DecidableEq, Repr

/-- The operand that a mode of the accessor reads from the operand bytes, with the bytes after it (R62, R63). -/
def readOperand : Mode → List Byte → Option (Operand × List Byte)
  | .acc, bs => some (.acc, bs)
  | .imm, b :: bs => some (.imm b, bs)
  | .zp0, b :: bs => some (.zp0 b, bs)
  | .zpx, b :: bs => some (.zpx b, bs)
  | .zpy, b :: bs => some (.zpy b, bs)
  | .izx, b :: bs => some (.izx b, bs)
  | .izy, b :: bs => some (.izy b, bs)
  | .abs, l :: h :: bs => some (.abs (joinBytes h l), bs)
  | .abx, l :: h :: bs => some (.abx (joinBytes h l), bs)
  | .aby, l :: h :: bs => some (.aby (joinBytes h l), bs)
  | _, _ => none

/-- The operand of JMP in mode ABJ or IND (R62). -/
def readJump : Mode → List Byte → Option (JumpOperand × List Byte)
  | .abj, l :: h :: bs => some (.abj (joinBytes h l), bs)
  | .ind, l :: h :: bs => some (.ind (joinBytes h l), bs)
  | _, _ => none

/-- The instruction that a form reads from the operand bytes, with the bytes after it. -/
def Form.read : Form → List Byte → Option (Instr × List Byte)
  | .implied i, bs => some (i, bs)
  | .operand m f, bs => (readOperand m bs).map fun r => (f r.1, r.2)
  | .jump m, bs => (readJump m bs).map fun r => (Instr.jmp r.1, r.2)
  | .call, l :: h :: bs => some (Instr.jsr (joinBytes h l), bs)
  | .branch f, b :: bs => some (f b, bs)
  | _, _ => none

/-- The instruction at the head of a list of bytes (R61, R67, R68). -/
def decode : List Byte → Decoded
  | [] => .refused .noOpcode
  | op :: bs =>
    match lookupRow op with
    | none => .ok (.unknown op) bs
    | some r =>
      match r.form.read bs with
      | some (i, rest) => .ok i rest
      | none => .refused (.truncated op)

/-- The opcode a mode has in a mnemonic's list of rows. -/
def opcodeIn (m : Mode) : List (Mode × Byte) → Option Byte
  | [] => none
  | (k, op) :: rest => if k = m then some op else opcodeIn m rest

/-- The opcode byte of an instruction, mnemonic by mnemonic from the "Encoding" line of its rule; none where the
instruction is no row of the table. -/
def opcodeOf : Instr → Option Byte
  | .lda m => opcodeIn m.mode [(.imm, 0xA9), (.zp0, 0xA5), (.zpx, 0xB5), (.abs, 0xAD), (.abx, 0xBD), (.aby, 0xB9), (.izx, 0xA1), (.izy, 0xB1)]
  | .ldx m => opcodeIn m.mode [(.imm, 0xA2), (.zp0, 0xA6), (.zpy, 0xB6), (.abs, 0xAE), (.aby, 0xBE)]
  | .ldy m => opcodeIn m.mode [(.imm, 0xA0), (.zp0, 0xA4), (.zpx, 0xB4), (.abs, 0xAC), (.abx, 0xBC)]
  | .sta m => opcodeIn m.mode [(.zp0, 0x85), (.zpx, 0x95), (.abs, 0x8D), (.abx, 0x9D), (.aby, 0x99), (.izx, 0x81), (.izy, 0x91)]
  | .stx m => opcodeIn m.mode [(.zp0, 0x86), (.zpy, 0x96), (.abs, 0x8E)]
  | .sty m => opcodeIn m.mode [(.zp0, 0x84), (.zpx, 0x94), (.abs, 0x8C)]
  | .tax => some 0xAA
  | .tay => some 0xA8
  | .txa => some 0x8A
  | .tya => some 0x98
  | .tsx => some 0xBA
  | .txs => some 0x9A
  | .adc m => opcodeIn m.mode [(.imm, 0x69), (.zp0, 0x65), (.zpx, 0x75), (.abs, 0x6D), (.abx, 0x7D), (.aby, 0x79), (.izx, 0x61), (.izy, 0x71)]
  | .sbc m => opcodeIn m.mode [(.imm, 0xE9), (.zp0, 0xE5), (.zpx, 0xF5), (.abs, 0xED), (.abx, 0xFD), (.aby, 0xF9), (.izx, 0xE1), (.izy, 0xF1)]
  | .cmp m => opcodeIn m.mode [(.imm, 0xC9), (.zp0, 0xC5), (.zpx, 0xD5), (.abs, 0xCD), (.abx, 0xDD), (.aby, 0xD9), (.izx, 0xC1), (.izy, 0xD1)]
  | .cpx m => opcodeIn m.mode [(.imm, 0xE0), (.zp0, 0xE4), (.abs, 0xEC)]
  | .cpy m => opcodeIn m.mode [(.imm, 0xC0), (.zp0, 0xC4), (.abs, 0xCC)]
  | .and m => opcodeIn m.mode [(.imm, 0x29), (.zp0, 0x25), (.zpx, 0x35), (.abs, 0x2D), (.abx, 0x3D), (.aby, 0x39), (.izx, 0x21), (.izy, 0x31)]
  | .ora m => opcodeIn m.mode [(.imm, 0x09), (.zp0, 0x05), (.zpx, 0x15), (.abs, 0x0D), (.abx, 0x1D), (.aby, 0x19), (.izx, 0x01), (.izy, 0x11)]
  | .eor m => opcodeIn m.mode [(.imm, 0x49), (.zp0, 0x45), (.zpx, 0x55), (.abs, 0x4D), (.abx, 0x5D), (.aby, 0x59), (.izx, 0x41), (.izy, 0x51)]
  | .bit m => opcodeIn m.mode [(.zp0, 0x24), (.abs, 0x2C)]
  | .inc m => opcodeIn m.mode [(.zp0, 0xE6), (.zpx, 0xF6), (.abs, 0xEE), (.abx, 0xFE)]
  | .dec m => opcodeIn m.mode [(.zp0, 0xC6), (.zpx, 0xD6), (.abs, 0xCE), (.abx, 0xDE)]
  | .inx => some 0xE8
  | .iny => some 0xC8
  | .dex => some 0xCA
  | .dey => some 0x88
  | .asl m => opcodeIn m.mode [(.acc, 0x0A), (.zp0, 0x06), (.zpx, 0x16), (.abs, 0x0E), (.abx, 0x1E)]
  | .lsr m => opcodeIn m.mode [(.acc, 0x4A), (.zp0, 0x46), (.zpx, 0x56), (.abs, 0x4E), (.abx, 0x5E)]
  | .rol m => opcodeIn m.mode [(.acc, 0x2A), (.zp0, 0x26), (.zpx, 0x36), (.abs, 0x2E), (.abx, 0x3E)]
  | .ror m => opcodeIn m.mode [(.acc, 0x6A), (.zp0, 0x66), (.zpx, 0x76), (.abs, 0x6E), (.abx, 0x7E)]
  | .bcc _ => some 0x90
  | .bcs _ => some 0xB0
  | .beq _ => some 0xF0
  | .bne _ => some 0xD0
  | .bmi _ => some 0x30
  | .bpl _ => some 0x10
  | .bvc _ => some 0x50
  | .bvs _ => some 0x70
  | .jmp j => opcodeIn j.mode [(.abj, 0x4C), (.ind, 0x6C)]
  | .jsr _ => some 0x20
  | .rts => some 0x60
  | .pha => some 0x48
  | .pla => some 0x68
  | .php => some 0x08
  | .plp => some 0x28
  | .brk => some 0x00
  | .rti => some 0x40
  | .clc => some 0x18
  | .sec => some 0x38
  | .cli => some 0x58
  | .sei => some 0x78
  | .cld => some 0xD8
  | .sed => some 0xF8
  | .clv => some 0xB8
  | .nop => some 0xEA
  | .unknown op => if op ∈ unknownOpcodes then some op else none

/-- The operand bytes of an operand, low byte first (R61). -/
def Operand.bytes : Operand → List Byte
  | .acc => []
  | .imm b | .zp0 b | .zpx b | .zpy b | .izx b | .izy b => [b]
  | .abs w | .abx w | .aby w => [loByte w, hiByte w]

/-- The operand bytes of a jump operand, low byte first (R61). -/
def JumpOperand.bytes : JumpOperand → List Byte
  | .abj w | .ind w => [loByte w, hiByte w]

/-- The operand bytes of an instruction. -/
def operandBytes : Instr → List Byte
  | .lda m | .ldx m | .ldy m | .sta m | .stx m | .sty m => m.bytes
  | .adc m | .sbc m | .cmp m | .cpx m | .cpy m | .and m | .ora m | .eor m | .bit m | .inc m | .dec m => m.bytes
  | .asl m | .lsr m | .rol m | .ror m => m.bytes
  | .bcc b | .bcs b | .beq b | .bne b | .bmi b | .bpl b | .bvc b | .bvs b => [b]
  | .jmp j => j.bytes
  | .jsr w => [loByte w, hiByte w]
  | .tax | .tay | .txa | .tya | .tsx | .txs | .inx | .iny | .dex | .dey
  | .rts | .pha | .pla | .php | .plp | .brk | .rti
  | .clc | .sec | .cli | .sei | .cld | .sed | .clv | .nop | .unknown _ => []

/-- The bytes of an instruction; empty where it is no row of the table. -/
def encode (i : Instr) : List Byte :=
  match opcodeOf i with
  | some op => op :: operandBytes i
  | none => []

/-- The base cycle count of an instruction: that of its opcode; 0 where it is no row of the table. -/
def baseCycles (i : Instr) : Nat :=
  match opcodeOf i with
  | some op => baseCyclesOf op
  | none => 0

/-- The three bytes of an instruction whose bits are `w` below bit `nbits` and 0 above, bit 0 the least significant bit of
the first byte; the longest instruction has three. -/
def tableBytes (nbits w : Nat) : List Byte :=
  [BitVec.ofNat 8 (w % 2 ^ nbits), BitVec.ofNat 8 (w % 2 ^ nbits / 2 ^ 8), BitVec.ofNat 8 (w % 2 ^ nbits / 2 ^ 16)]

/-- The instruction the decoder reads from an instruction's bits numbered as spec/opcode_table.json numbers them. -/
def decodeTableWord (nbits w : Nat) : Option Instr :=
  match decode (tableBytes nbits w) with
  | .ok i _ => some i
  | .refused _ => none

end Sys2Proof
end

