-- ==== Sys2Proof/Machine/State.lean ====
section
/-! DEFINITION. The state of the machine as plain data: the CPU register file, CPU RAM, the PPU, and the parameters of the
machine that are data. One field for every piece of state of 10_state.md, listed in INVENTORY.md. -/

namespace Sys2Proof.Machine

/-- A byte memory: (index, byte) pairs, indexes strictly rising, no byte equal to what an unlisted index reads as. -/
abbrev Memory := List Host.Cell

/-- What an index no cell lists reads as (DESIGN CHOICE, unsafe; log entry 1: the spec leaves `POWER_ON` OPEN). -/
def unlistedByte : Byte := 0x00

/-- The cells' indexes rise strictly from `lo`, stay below `bound`, and no cell holds the unlisted byte. -/
def Memory.wfFrom (bound : Nat) : Nat → Memory → Bool
  | _, [] => true
  | lo, (k, v) :: rest =>
    decide (lo ≤ k) && decide (k < bound) && decide (v ≠ unlistedByte) && Memory.wfFrom bound (k + 1) rest

/-- The canonical form of a memory of `bound` bytes. -/
def Memory.wf (bound : Nat) (m : Memory) : Bool := Memory.wfFrom bound 0 m

/-- The PPU registers in the order of their indexes 0 to 7 (50_ppu_registers.md R159). -/
inductive PpuReg where
  | ctrl | mask | status | oamAddr | oamData | scroll | addr | data
  deriving DecidableEq, Repr

/-- The direction of a Bus access. -/
inductive AccessDir where
  | read
  | write
  deriving DecidableEq, Repr

/-- The CPU registers (10_state.md R15 to R18), as `Fault.unset` names them. -/
inductive CpuReg where
  | a | x | y | sp | pc | p
  deriving DecidableEq, Repr

/-- Why the machine stops: the closed list of 60_exceptions.md R184. -/
inductive Fault where
  /-- Raised by a PRG or CHR read whose offset the mapper rejects (20_memory.md R53): fetch, loads, vectors, PPUDATA
  reads and rendering. Safe: the spec ends the run here. -/
  | mapperOffset (off : Nat)
  /-- Raised by a PPUDATA read or write at an unrouted PPU address under `PPU_UNROUTED = fault` (20_memory.md R51).
  Safe: the spec ends the run here. -/
  | ppuUnrouted (a : Word)
  /-- Raised by a read of PPU register 0, 1, 3, 5 or 6 or a write of register 2 under `PPU_UNDEFINED_PORT = fault`
  (50_ppu_registers.md R171). Safe: the spec ends the run here. -/
  | ppuUndefinedPort (r : PpuReg) (dir : AccessDir)
  /-- Raised by a step, IRQ or NMI before the first reset, at the first CPU register it reads (70_reset_and_hazards.md
  R200). Safe: the spec ends the run here. -/
  | unset (r : CpuReg)
  deriving DecidableEq, Repr

/-- Why an instruction has no meaning. No step of the machine is ever refused: the decoder gives only rows of the
opcode table, and every row has its meaning. -/
inductive Refusal where
  /-- Raised by an arm of `exec` that has no meaning yet, by its mnemonic: no arm of this model. Safe. -/
  | notModelled (mnemonic : String)
  /-- Raised by `exec` on a term of `Instr` that is no row of the opcode table (an operand form its mnemonic does not
  have, or an unknown opcode that is documented), which no decoded instruction is. Safe. -/
  | noSuchForm
  /-- Raised by `fetch` if the decoder refused the bytes it fetched, which it never does. Safe. -/
  | undecodable
  deriving DecidableEq, Repr

/-- An outcome that carries a value of `α` where the machine goes on. -/
abbrev Result (α : Type) := Host.Outcome α Fault Refusal

/-- Go on with `f` where the machine goes on; a fault or a refusal ends the action at once (R184). -/
def andThen {α β : Type} (r : Result α) (f : α → Result β) : Result β :=
  match r with
  | .next x => f x
  | .fault e => .fault e
  | .refused e => .refused e

/-- A range of offsets, both ends included. -/
structure Span where
  first : Nat
  last : Nat
  deriving DecidableEq, Repr

/-- The parameter `MAPPER` (20_memory.md R53) as plain data. A partial function from offsets to bytes is its bytes
together with the offsets it rejects, so every mapper can be written so (log entry 2). -/
structure Mapper where
  /-- `read_prg`'s bytes by offset 0x0000–0x7FFF. -/
  prg : Memory
  /-- The offsets `read_prg` rejects. -/
  prgRejects : List Span
  /-- `read_chr`'s bytes by offset 0x0000–0x1FFF. -/
  chr : Memory
  /-- The offsets `read_chr` rejects. -/
  chrRejects : List Span
  /-- `mirror_mode`. -/
  mirror : MirrorMode
  deriving DecidableEq, Repr

/-- The state of the PPU (10_state.md R30), under the names of its table. -/
structure Ppu where
  ctrl : Byte
  mask : Byte
  status : Byte
  oamAddr : Byte
  oam : Memory
  scrollX : Byte
  scrollY : Byte
  /-- True when the next scroll write is the second (Y). -/
  scrollSecond : Bool
  /-- Always ≤ 0x3FFF. -/
  vaddr : Word
  /-- True when the next address write is the high byte. -/
  addrHiNext : Bool
  readBuf : Byte
  vram : Memory
  palette : Memory
  deriving DecidableEq, Repr

/-- The whole machine. -/
structure State where
  /-- Accumulator (R15). -/
  a : Byte
  /-- Index register X (R15). -/
  x : Byte
  /-- Index register Y (R15). -/
  y : Byte
  /-- Stack pointer, in page 0x01 (R16). -/
  sp : Byte
  /-- Program counter (R17). -/
  pc : Word
  /-- Status register, bits 7..0 = N V U B D I Z C (R18). -/
  p : Byte
  /-- The CPU registers hold values: false from power-on to the first reset (R35, R200). -/
  cpuSet : Bool
  /-- CPU RAM by physical index 0x000–0x7FF (R28). -/
  ram : Memory
  /-- The PPU (R30). -/
  ppu : Ppu
  /-- The parameter `MAPPER` (R29, R53); no action changes it (log entry 2). -/
  mapper : Mapper
  /-- The parameters of R9 with a default; no action changes them (log entry 3). -/
  params : Params
  /-- The model's own: how many free bytes have been drawn (log entry 5). -/
  draws : Nat
  /-- The model's own: the cycle count the last action returned (R76); no rule reads it (log entry 4). -/
  cycles : Nat
  deriving DecidableEq, Repr

/-- `A <- v`. -/
def State.setA (s : State) (v : Byte) : State := { s with a := v }
/-- `X <- v`. -/
def State.setX (s : State) (v : Byte) : State := { s with x := v }
/-- `Y <- v`. -/
def State.setY (s : State) (v : Byte) : State := { s with y := v }
/-- `SP <- v`. -/
def State.setSp (s : State) (v : Byte) : State := { s with sp := v }
/-- `PC <- v`. -/
def State.setPc (s : State) (v : Word) : State := { s with pc := v }
/-- `P <- v`. -/
def State.setP (s : State) (v : Byte) : State := { s with p := v }
/-- The CPU RAM becomes `m`. -/
def State.setRam (s : State) (m : Memory) : State := { s with ram := m }
/-- The PPU's state becomes `u`. -/
def State.setPpu (s : State) (u : Ppu) : State := { s with ppu := u }
/-- The number of draws becomes `n`. -/
def State.setDraws (s : State) (n : Nat) : State := { s with draws := n }
/-- The action returns `n` cycles. -/
def State.setCycles (s : State) (n : Nat) : State := { s with cycles := n }

/-- The parameter `POWER_ON` (R9, D37): the initial contents of the memories and of the read buffer. -/
structure PowerOn where
  ram : Memory
  vram : Memory
  palette : Memory
  oam : Memory
  readBuf : Byte
  deriving DecidableEq, Repr

/-- The PPU at power-on (R35, R200): the registers at 0, the latches at the first write, the memories `POWER_ON`'s. -/
def Ppu.powerOn (c : PowerOn) : Ppu :=
  { ctrl := 0, mask := 0, status := 0, oamAddr := 0, oam := c.oam, scrollX := 0, scrollY := 0, scrollSecond := false,
    vaddr := 0, addrHiNext := true, readBuf := c.readBuf, vram := c.vram, palette := c.palette }

/-- The machine constructed with parameters `ps` and contents `c` and the cartridge `m` attached, before any reset
(70_reset_and_hazards.md R200, R201). The CPU registers hold no value: `cpuSet` is false and nothing reads them. -/
def State.powerOn (ps : Params) (c : PowerOn) (m : Mapper) : State :=
  { a := 0, x := 0, y := 0, sp := 0, pc := 0, p := 0, cpuSet := false, ram := c.ram, ppu := Ppu.powerOn c, mapper := m,
    params := ps, draws := 0, cycles := 0 }

/-- The instance of `POWER_ON` that `State.reset` takes (DESIGN CHOICE, unsafe; log entry 1). -/
def PowerOn.unlisted : PowerOn := { ram := [], vram := [], palette := [], oam := [], readBuf := 0 }

/-- The cartridge that `State.reset` takes (DESIGN CHOICE, unsafe; log entry 2): no byte listed, no offset rejected. -/
def Mapper.unlisted : Mapper := { prg := [], prgRejects := [], chr := [], chrRejects := [], mirror := .horizontal }

/-- The machine right after the reset of R199, from power-on with nothing listed: A = X = Y = 0, SP = 0xFD, P = 0, PC the
word at 0xFFFC (0x0000 of the empty cartridge), the value returned 8. -/
def State.reset : State :=
  { a := 0x00, x := 0x00, y := 0x00, sp := 0xFD, pc := 0x0000, p := 0x00, cpuSet := true, ram := [],
    ppu := Ppu.powerOn PowerOn.unlisted, mapper := Mapper.unlisted, params := Params.default, draws := 0, cycles := 8 }

end Sys2Proof.Machine
end

