-- ==== Sys2Proof/Machine/Flags.lean ====
section
/-! DEFINITION. The flags of the status byte (10_state.md R18) and every flag computation of the instruction rules. -/

namespace Sys2Proof.Machine

/-- The eight bits of P by name (R18). -/
inductive Flag where
  | n | v | u | b | d | i | z | c
  deriving DecidableEq, Repr

/-- The bit position of a flag (R18). -/
def Flag.bit : Flag → Nat
  | .n => 7
  | .v => 6
  | .u => 5
  | .b => 4
  | .d => 3
  | .i => 2
  | .z => 1
  | .c => 0

/-- `P.f`. -/
def flag (f : Flag) (p : Byte) : Bool := p.getLsbD f.bit

/-- `P.f <- x`, every other bit unchanged. -/
def setFlag (f : Flag) (x : Bool) (p : Byte) : Byte :=
  if x then p ||| (1#8 <<< f.bit) else p &&& ~~~(1#8 <<< f.bit)

/-- `setNZ(r)`: `P.N <- r[7]; P.Z <- (r == 0)` (00_scope.md R12). -/
def setNZ (r : Byte) (p : Byte) : Byte := setFlag .n (r.getLsbD 7) (setFlag .z (r == 0) p)

/-- What `AddCore` gives: the byte, the carry and the signed overflow (43_arith_logic.md R111). -/
structure AddResult where
  r : Byte
  c : Bool
  v : Bool
  deriving DecidableEq, Repr

/-- `AddCore(a, m, cin)` (R111): s a natural number 0..511. -/
def addCore (a m : Byte) (cin : Bool) : AddResult :=
  let s := a.toNat + m.toNat + cin.toNat
  let r := BitVec.ofNat 8 s
  { r := r, c := decide (256 ≤ s), v := a.getLsbD 7 == m.getLsbD 7 && r.getLsbD 7 != a.getLsbD 7 }

/-- The flags after ADC and SBC: C and V of the addition, N and Z of its byte (R112, R113). -/
def addFlags (w : AddResult) (p : Byte) : Byte := setNZ w.r (setFlag .v w.v (setFlag .c w.c p))

/-- `Compare(reg, m)` (R114): the flags of `AddCore(reg, ~m, 1)`, V only when `CMP_WRITES_V`. -/
def compareFlags (ps : Params) (reg m : Byte) (p : Byte) : Byte :=
  let w := addCore reg (~~~m) true
  let q := setNZ w.r (setFlag .c w.c p)
  if ps.cmpWritesV then setFlag .v w.v q else q

/-- The flags of BIT (R121): Z of `A & m`, N and V bits 7 and 6 of m. -/
def bitFlags (a m : Byte) (p : Byte) : Byte :=
  setFlag .v (m.getLsbD 6) (setFlag .n (m.getLsbD 7) (setFlag .z (a &&& m == 0) p))

/-- A byte computed from an operand and the status byte, with the new status byte. -/
abbrev ByteOp := Byte → Byte → Byte × Byte

/-- INC (R122): m + 1 modulo 256; C and V unchanged. -/
def incrementOp : ByteOp := fun m p => (m + 1, setNZ (m + 1) p)

/-- DEC (R123): m − 1 modulo 256; C and V unchanged. -/
def decrementOp : ByteOp := fun m p => (m - 1, setNZ (m - 1) p)

/-- ASL (44_shift_rotate.md R128): bit 7 to C, bit 0 becomes 0. -/
def aslOp : ByteOp := fun m p =>
  let r := m <<< 1
  (r, setNZ r (setFlag .c (m.getLsbD 7) p))

/-- LSR (R129): bit 0 to C, bit 7 becomes 0. -/
def lsrOp : ByteOp := fun m p =>
  let r := m >>> 1
  (r, setNZ r (setFlag .c (m.getLsbD 0) p))

/-- ROL (R130): bit 7 to C, the old C to bit 0. -/
def rolOp : ByteOp := fun m p =>
  let r := (m <<< 1) ||| (if flag .c p then 0x01 else 0x00)
  (r, setNZ r (setFlag .c (m.getLsbD 7) p))

/-- ROR (R131): bit 0 to C, the old C to bit 7. -/
def rorOp : ByteOp := fun m p =>
  let r := (if flag .c p then 0x80 else 0x00) ||| (m >>> 1)
  (r, setNZ r (setFlag .c (m.getLsbD 0) p))

/-- The copy of P that PHP and BRK push: U and B forced to 1 (46_stack_flag_system.md R147, R149). -/
def pushedByProgram (p : Byte) : Byte := p ||| 0x30

/-- The copy of P that IRQ and NMI push: B cleared, U and I set (60_exceptions.md R188). -/
def pushedByInterrupt (p : Byte) : Byte := (p &&& ~~~0x10) ||| 0x20 ||| 0x04

/-- What PLP and RTI make of a pulled byte: B and U cleared (R148, R150). -/
def pulledStatus (b : Byte) : Byte := b &&& 0xCF

end Sys2Proof.Machine
end

