-- ==== Sys2Proof/Machine/Memory.lean ====
section
/-! DEFINITION. Reading and writing a byte memory, and the cartridge's mapper (20_memory.md R53, R54). -/

namespace Sys2Proof.Machine

/-- The byte at index `k`: the listed one, or the unlisted byte. -/
def memRead : Memory → Nat → Byte
  | [], _ => unlistedByte
  | (j, v) :: rest, k => if j = k then v else memRead rest k

/-- Index `k` becomes `v`; the canonical form is kept: a cell is placed in order, and the unlisted byte lists no cell. -/
def memWrite : Memory → Nat → Byte → Memory
  | [], k, v => if v = unlistedByte then [] else [(k, v)]
  | (j, w) :: rest, k, v =>
    if k < j then if v = unlistedByte then (j, w) :: rest else (k, v) :: (j, w) :: rest
    else if k = j then if v = unlistedByte then rest else (k, v) :: rest
    else (j, w) :: memWrite rest k v

/-- The memory whose bytes from index `k` on are the given ones. -/
def memOfBytes : Nat → List Byte → Memory
  | _, [] => []
  | k, b :: bs => if b = unlistedByte then memOfBytes (k + 1) bs else (k, b) :: memOfBytes (k + 1) bs

/-- The offset lies in one of the rejected ranges. -/
def rejected (off : Nat) (holes : List Span) : Bool := holes.any fun h => h.first ≤ off && off ≤ h.last

/-- `read_prg(off)`: a byte, or none where the mapper rejects the offset (R53). -/
def prgAt (m : Mapper) (off : Nat) : Option Byte :=
  if rejected off m.prgRejects then none else some (memRead m.prg off)

/-- `read_chr(off)`: a byte, or none where the mapper rejects the offset (R53). -/
def chrAt (m : Mapper) (off : Nat) : Option Byte :=
  if rejected off m.chrRejects then none else some (memRead m.chr off)

/-- `MAPPER.read_prg(off)`: a rejected offset raises `Fault(MapperOffset(off))` (R53). -/
def readPrg (off : Nat) (m : Mapper) : Result Byte :=
  match prgAt m off with
  | some b => .next b
  | none => .fault (.mapperOffset off)

/-- `MAPPER.read_chr(off)`: a rejected offset raises `Fault(MapperOffset(off))` (R53). -/
def readChr (off : Nat) (m : Mapper) : Result Byte :=
  match chrAt m off with
  | some b => .next b
  | none => .fault (.mapperOffset off)

/-- The reference base mapper of a cartridge with PRG bytes `prg` and CHR bytes `chr` (R54): a 32 KB image as it is, a
16 KB image seen twice, any other rejected; CHR offsets beyond the image rejected. -/
def baseMapper (prg chr : List Byte) (mirror : MirrorMode) : Mapper :=
  let prgServed := prg.length = 0x8000 ∨ prg.length = 0x4000
  { prg := if prg.length = 0x8000 then memOfBytes 0 prg else if prg.length = 0x4000 then memOfBytes 0 (prg ++ prg) else []
    prgRejects := if prgServed then [] else [⟨0, 0x7FFF⟩]
    chr := memOfBytes 0 (chr.take 0x2000)
    chrRejects := if chr.length < 0x2000 then [⟨chr.length, 0x1FFF⟩] else []
    mirror := mirror }

end Sys2Proof.Machine
end

