-- ==== Sys2Proof/Machine/Ppu.lean ====
section
/-! DEFINITION. The PPU's address space (20_memory.md R48 to R52) and its register bank as the CPU sees it
(50_ppu_registers.md R159 to R171). -/

namespace Sys2Proof.Machine

/-- The register of index 0 to 7 (R159). -/
def ppuRegOf : Nat → PpuReg
  | 0 => .ctrl
  | 1 => .mask
  | 2 => .status
  | 3 => .oamAddr
  | 4 => .oamData
  | 5 => .scroll
  | 6 => .addr
  | _ => .data

/-- `vram_increment` (10_state.md R31): 32 if bit 2 of the Control register is set, else 1. -/
def vramIncrement (ctrl : Byte) : Nat := if ctrl.getLsbD 2 then 32 else 1

/-- `NtIndex(a)` (20_memory.md R49). -/
def ntIndex (mode : MirrorMode) (a : Word) : Nat :=
  let vramIndex := ((a &&& 0x2FFF) - 0x2000).toNat
  let nameTable := vramIndex / 0x400
  if mode = .vertical ∧ (nameTable = 2 ∨ nameTable = 3) then vramIndex - 0x800
  else if mode = .horizontal ∧ (nameTable = 1 ∨ nameTable = 2) then vramIndex - 0x400
  else if mode = .horizontal ∧ nameTable = 3 then vramIndex - 0x800
  else vramIndex

/-- `PalIndex(a)` for 0x3F00 ≤ a ≤ 0x3F1F (R50): entry 0 of a sprite palette is entry 0 of the background palette. -/
def palIndex (a : Word) : Nat :=
  let j := a.toNat - 0x3F00
  if j = 0x10 ∨ j = 0x14 ∨ j = 0x18 ∨ j = 0x1C then j - 0x10 else j

/-- Where an address of the PPU's address space leads (R48). -/
inductive PpuTarget where
  | chr (off : Nat)
  | vram (i : Nat)
  | palette (j : Nat)
  | unrouted
  deriving DecidableEq, Repr

/-- `PpuTarget(a)` (R48), the two ranges the document does not route as `PPU_UNROUTED` decides (R51). -/
def ppuTarget (ps : Params) (mode : MirrorMode) (a : Word) : PpuTarget :=
  let n := a.toNat
  if n < 0x2000 then .chr n
  else if n < 0x3000 then .vram (ntIndex mode a)
  else if n < 0x3F00 then
    match ps.unrouted with
    | .fault => .unrouted
    | .hwMirror => .vram (ntIndex mode a)
  else if n < 0x3F20 then .palette (palIndex a)
  else if n < 0x4000 then
    match ps.unrouted with
    | .fault => .unrouted
    | .hwMirror => .palette (palIndex (0x3F00 + (a &&& 0x001F)))
  else .unrouted

/-- `if w > 0x3FFF: w <- w & 0x3FFF` (R167). -/
def mask14 (w : Word) : Word := if w.toNat > 0x3FFF then w &&& 0x3FFF else w

/-- `Add(n)` (R168): n to the low byte, its carry to the high byte, masked to 14 bits. -/
def advanceVaddr (n : Nat) (v : Word) : Word :=
  let l := (loByte v).toNat + n
  let h := (hiByte v).toNat + (if l > 0xFF then 1 else 0)
  mask14 (joinBytes (BitVec.ofNat 8 h) (BitVec.ofNat 8 l))

/-- `Add(vram_increment)`: what every PPUDATA access does afterwards (R169, R170). -/
def Ppu.advance (u : Ppu) : Ppu := { u with vaddr := advanceVaddr (vramIncrement u.ctrl) u.vaddr }

/-- A read of register 7, PPUDATA (R169): the buffered byte, the buffer refilled; a palette byte directly. -/
def ppuDataRead (s : State) : Result (Byte × State) :=
  let u := s.ppu
  match ppuTarget s.params s.mapper.mirror u.vaddr with
  | .chr off => andThen (readChr off s.mapper) fun b => .next (u.readBuf, s.setPpu (Ppu.advance { u with readBuf := b }))
  | .vram i => .next (u.readBuf, s.setPpu (Ppu.advance { u with readBuf := memRead u.vram i }))
  | .palette j => .next (memRead u.palette j, s.setPpu u.advance)
  | .unrouted => .fault (.ppuUnrouted u.vaddr)

/-- A write of register 7, PPUDATA (R170): CHR discards it, VRAM and the palette store all 8 bits. -/
def ppuDataWrite (v : Byte) (s : State) : Result State :=
  let u := s.ppu
  match ppuTarget s.params s.mapper.mirror u.vaddr with
  | .chr _ => .next (s.setPpu u.advance)
  | .vram i => .next (s.setPpu (Ppu.advance { u with vram := memWrite u.vram i v }))
  | .palette j => .next (s.setPpu (Ppu.advance { u with palette := memWrite u.palette j v }))
  | .unrouted => .fault (.ppuUnrouted u.vaddr)

/-- A read of a register that has no read port (R171): a fault, or under `hw` a draw. -/
def ppuUndefinedRead (r : PpuReg) (s : State) : Result (Byte × State) :=
  match s.params.undefinedPort with
  | .fault => .fault (.ppuUndefinedPort r .read)
  | .hw => .next (Config.drawByte s.draws, s.setDraws (s.draws + 1))

/-- A write of a register that has no write port (R171): a fault, or under `hw` ignored. -/
def ppuUndefinedWrite (r : PpuReg) (s : State) : Result State :=
  match s.params.undefinedPort with
  | .fault => .fault (.ppuUndefinedPort r .write)
  | .hw => .next s

/-- A CPU read of a PPU register (R159): Status resets the address latch (R162), OAMDATA changes nothing (R165). -/
def ppuRead (r : PpuReg) (s : State) : Result (Byte × State) :=
  match r with
  | .status => .next (s.ppu.status, s.setPpu { s.ppu with addrHiNext := true })
  | .oamData => .next (memRead s.ppu.oam s.ppu.oamAddr.toNat, s)
  | .data => ppuDataRead s
  | .ctrl => ppuUndefinedRead .ctrl s
  | .mask => ppuUndefinedRead .mask s
  | .oamAddr => ppuUndefinedRead .oamAddr s
  | .scroll => ppuUndefinedRead .scroll s
  | .addr => ppuUndefinedRead .addr s

/-- A write of register 4, OAMDATA (R164): the byte at the OAM address, which then advances modulo 256. -/
def oamDataWrite (v : Byte) (u : Ppu) : Ppu :=
  { u with oam := memWrite u.oam u.oamAddr.toNat v, oamAddr := u.oamAddr + 1 }

/-- A write of register 5, PPUSCROLL (R166): X and Y in turn. -/
def scrollWrite (v : Byte) (u : Ppu) : Ppu :=
  if u.scrollSecond then { u with scrollY := v, scrollSecond := false } else { u with scrollX := v, scrollSecond := true }

/-- A write of register 6, PPUADDR (R167): the high and the low byte in turn, the other one kept, masked to 14 bits. -/
def addrWrite (v : Byte) (u : Ppu) : Ppu :=
  let w := if u.addrHiNext then joinBytes v (loByte u.vaddr) else joinBytes (hiByte u.vaddr) v
  { u with vaddr := mask14 w, addrHiNext := !u.addrHiNext }

/-- A CPU write of a PPU register (R159). -/
def ppuWrite (r : PpuReg) (v : Byte) (s : State) : Result State :=
  match r with
  | .ctrl => .next (s.setPpu { s.ppu with ctrl := v })
  | .mask => .next (s.setPpu { s.ppu with mask := v })
  | .status => ppuUndefinedWrite .status s
  | .oamAddr => .next (s.setPpu { s.ppu with oamAddr := v })
  | .oamData => .next (s.setPpu (oamDataWrite v s.ppu))
  | .scroll => .next (s.setPpu (scrollWrite v s.ppu))
  | .addr => .next (s.setPpu (addrWrite v s.ppu))
  | .data => ppuDataWrite v s

end Sys2Proof.Machine
end

