-- ==== Sys2Proof/Machine/Ops.lean ====
section
/-! DEFINITION. The shared operations of the machine: the Bus (20_memory.md R36 to R42), the stack (46_stack_flag_system.md
R144), taking an interrupt (60_exceptions.md R188, 46_stack_flag_system.md R149), the return from one (R150), and the
fetch of an instruction (40_dispatch.md R72). -/

namespace Sys2Proof.Machine

/-- Where a CPU address leads (R37). -/
inductive BusTarget where
  | ram (i : Nat)
  | ppu (r : PpuReg)
  | unmapped
  | prg (off : Nat)
  deriving DecidableEq, Repr

/-- The Bus decoder (R37): RAM index `a & 0x07FF` (R38), PPU register `(a − 0x2000) mod 8` (R39), PRG offset
`a − 0x8000` (R40), the rest unmapped (R41). -/
def busTarget (a : Word) : BusTarget :=
  let n := a.toNat
  if n < 0x2000 then .ram (n % 0x800)
  else if n < 0x4000 then .ppu (ppuRegOf ((n - 0x2000) % 8))
  else if n < 0x8000 then .unmapped
  else .prg (n - 0x8000)

/-- `MemRead(a)`, one Bus read (00_scope.md R12, R37). -/
def busRead (a : Word) (s : State) : Result (Byte × State) :=
  match busTarget a with
  | .ram i => .next (memRead s.ram i, s)
  | .ppu r => ppuRead r s
  | .unmapped => .next (0x00, s)
  | .prg off => andThen (readPrg off s.mapper) fun b => .next (b, s)

/-- `MemWrite(a, v)`, one Bus write (00_scope.md R12, R37): discarded in the unmapped range (R41) and the PRG window
(R42). -/
def busWrite (a : Word) (v : Byte) (s : State) : Result State :=
  match busTarget a with
  | .ram i => .next (s.setRam (memWrite s.ram i v))
  | .ppu r => ppuWrite r v s
  | .unmapped => .next s
  | .prg _ => .next s

/-- `Read16(a)` (R12): the low byte at a, then the high byte at a + 1 (u16 wrap). -/
def read16 (a : Word) (s : State) : Result (Word × State) :=
  andThen (busRead a s) fun l =>
    andThen (busRead (a + 1) l.2) fun h => .next (joinBytes h.1 l.1, h.2)

/-- The byte at index `0x0100 | SP` (R16), always in RAM (R37). -/
def stackIndex (sp : Byte) : Nat := 0x100 + sp.toNat

/-- `push(v)` (R144): the write at `0x0100 | SP`, then SP − 1 modulo 256. The Bus decodes every stack address to RAM. -/
def push (v : Byte) (s : State) : State := (s.setRam (memWrite s.ram (stackIndex s.sp) v)).setSp (s.sp - 1)

/-- `push(hi(w)); push(lo(w))`, as JSR and the interrupt entries push a program counter. -/
def pushWord (w : Word) (s : State) : State := push (loByte w) (push (hiByte w) s)

/-- What `pull()` does to the state (R144): SP + 1 modulo 256. -/
def pulled (s : State) : State := s.setSp (s.sp + 1)

/-- The byte that `pull()` returns (R144): that at `0x0100 | (SP + 1)`, in RAM. -/
def pullByte (s : State) : Byte := memRead s.ram (stackIndex (s.sp + 1))

/-- The word of two pulls, low byte first, as RTS and RTI pull a program counter. -/
def pullWord (s : State) : Word := joinBytes (pullByte (pulled s)) (pullByte s)

/-- TAKING AN INTERRUPT, by BRK, IRQ or NMI (R149, R188): push the return address, high byte first, push the given copy of
P, set I in the live P (its B and U unchanged), and go to the address the vector holds. -/
def enterInterrupt (vector ret : Word) (copy : Byte) (s : State) : Result State :=
  let t := (push copy (pushWord ret s)).setP (setFlag .i true s.p)
  andThen (read16 vector t) fun r => .next (r.2.setPc r.1)

/-- THE RETURN from BRK, IRQ or NMI (R150, R189): pull P with B and U cleared, then PC, low byte first, with no
adjustment. -/
def returnFromInterrupt (s : State) : State :=
  let t := (pulled s).setP (pulledStatus (pullByte s))
  (pulled (pulled t)).setPc (pullWord t)

/-- The IRQ/BRK vector's address (20_memory.md R47, D13). -/
def irqVector : Word := 0xFFFE

/-- The NMI vector's address (R47, D13). -/
def nmiVector : Word := 0xFFFA

/-- The reset vector's address (R47). -/
def resetVector : Word := 0xFFFC

/-- `Fetch8()` (41_addressing.md): the byte at PC, PC + 1 modulo 2^16. -/
def fetchByte (s : State) : Result (Byte × State) :=
  andThen (busRead s.pc s) fun r => .next (r.1, r.2.setPc (r.2.pc + 1))

/-- `n` bytes of the instruction stream, at rising addresses. -/
def fetchBytes : Nat → State → Result (List Byte × State)
  | 0, s => .next ([], s)
  | n + 1, s =>
    andThen (fetchByte s) fun r =>
      andThen (fetchBytes n r.2) fun q => .next (r.1 :: q.1, q.2)

/-- The fetch of one instruction (R72): the opcode, then the operand bytes of its mode. PC is left at the next sequential
instruction (R74). -/
def fetch (s : State) : Result (Instr × State) :=
  andThen (fetchByte s) fun r =>
    andThen (fetchBytes (operandBytesOf r.1) r.2) fun q =>
      match decode (r.1 :: q.1) with
      | .ok i _ => .next (i, q.2)
      | .refused _ => .refused .undecodable

/-- The ranges without the offset `off`. -/
def serveOffset (off : Nat) (holes : List Span) : List Span :=
  holes.flatMap fun h =>
    if h.first ≤ off ∧ off ≤ h.last then
      (if h.first < off then [⟨h.first, off - 1⟩] else []) ++ (if off < h.last then [⟨off + 1, h.last⟩] else [])
    else [h]

/-- The byte that a fetch at `a` reads becomes `v`, from outside the machine: the RAM byte, or the cartridge's PRG byte
(served from then on). No byte can be placed in the PPU window or the unmapped range. -/
def placeByte (a : Word) (v : Byte) (s : State) : State :=
  match busTarget a with
  | .ram i => s.setRam (memWrite s.ram i v)
  | .prg off =>
    { s with mapper := { s.mapper with prg := memWrite s.mapper.prg off v, prgRejects := serveOffset off s.mapper.prgRejects } }
  | .ppu _ => s
  | .unmapped => s

/-- The bytes at rising addresses from `a` on become the given ones. -/
def placeBytes : Word → List Byte → State → State
  | _, [], s => s
  | a, b :: bs, s => placeBytes (a + 1) bs (placeByte a b s)

/-- A byte can be placed at `a`. -/
def placeable (a : Word) : Bool :=
  match busTarget a with
  | .ram _ => true
  | .prg _ => true
  | .ppu _ => false
  | .unmapped => false

end Sys2Proof.Machine
end

