-- ==== Sys2Proof/Machine/Operands.lean ====
section
/-! DEFINITION. The addressing modes and the operand accessor (41_addressing.md R79 to R96), and the two shapes every
instruction's meaning has: with an operand and without one. The operand bytes are fetched already (Ops.fetch), so PC is
the address of the next sequential instruction (40_dispatch.md R74). -/

namespace Sys2Proof.Machine

/-- A resolved operand (R79). -/
inductive Opnd where
  | acc
  | imm (v : Byte)
  | addr (ea : Word)
  deriving DecidableEq, Repr

/-- What `Resolve(mode)` returns (R79): the operand, and whether an indexed address left its base's page. -/
structure Resolved where
  opnd : Opnd
  crossed : Bool
  deriving DecidableEq, Repr

/-- The pointer at zero-page address `p`: low byte at p, high byte at `(p + 1) & 0xFF` (R91, R92). Both are Bus reads
in page 0, which the Bus decodes to RAM (20_memory.md R37) and which have no side effect (R43). -/
def zeroPageWord (s : State) (p : Byte) : Word := joinBytes (memRead s.ram (p + 1).toNat) (memRead s.ram p.toNat)

/-- `base + index` modulo 2^16, with the page test of R88. -/
def indexed (base : Word) (index : Byte) : Resolved :=
  let ea := base + zext16 index
  { opnd := .addr ea, crossed := pageOf base != pageOf ea }

/-- `Resolve(mode)` for the modes of the operand accessor (R81 to R86, R88, R89, R91, R92). -/
def resolve (m : Operand) (s : State) : Resolved :=
  match m with
  | .acc => { opnd := .acc, crossed := false }
  | .imm v => { opnd := .imm v, crossed := false }
  | .zp0 b => { opnd := .addr (zext16 b), crossed := false }
  | .zpx b => { opnd := .addr (zext16 (b + s.x)), crossed := false }
  | .zpy b => { opnd := .addr (zext16 (b + s.y)), crossed := false }
  | .abs w => { opnd := .addr w, crossed := false }
  | .abx w => indexed w s.x
  | .aby w => indexed w s.y
  | .izx b => { opnd := .addr (zeroPageWord s (b + s.x)), crossed := false }
  | .izy b => indexed (zeroPageWord s b) s.y

/-- The target of a branch (R93): PC, the address after the branch, plus the sign-extended offset, modulo 2^16. -/
def branchTarget (off : Byte) (s : State) : Word := s.pc + sext16 off

/-- `Resolve(ABJ)` and `Resolve(IND)` (R87, R90): the target of JMP; the indirect form reads the high byte from the start
of the same page when the pointer's low byte is 0xFF. -/
def resolveJump (j : JumpOperand) (s : State) : Result (Word × State) :=
  match j with
  | .abj w => .next (w, s)
  | .ind ptr =>
    andThen (busRead ptr s) fun l =>
      andThen (busRead ((ptr &&& 0xFF00) ||| ((ptr + 1) &&& 0x00FF)) l.2) fun h => .next (joinBytes h.1 l.1, h.2)

/-- `Load(opnd)` (R94). -/
def load (o : Opnd) (s : State) : Result (Byte × State) :=
  match o with
  | .acc => .next (s.a, s)
  | .imm v => .next (v, s)
  | .addr ea => busRead ea s

/-- `Store(opnd, v)` (R95). No opcode stores to an immediate operand. -/
def store (o : Opnd) (v : Byte) (s : State) : Result State :=
  match o with
  | .acc => .next (s.setA v)
  | .imm _ => .refused .noSuchForm
  | .addr ea => busWrite ea v s

/-- The instructions that take the page penalty under `reads_only` (R96). -/
def penalisedRead : Instr → Bool
  | .adc _ | .and _ | .cmp _ | .eor _ | .lda _ | .ldx _ | .ldy _ | .ora _ | .sbc _ => true
  | _ => false

/-- `PagePenalty(handler, mode, crossed)` (R96). -/
def pagePenalty (ps : Params) (i : Instr) (crossed : Bool) : Nat :=
  match ps.pagePenalty with
  | .all => if crossed then 1 else 0
  | .readsOnly => if crossed && penalisedRead i then 1 else 0

/-- The step returns `base + PagePenalty + branch_extra` (40_dispatch.md R76). -/
def finish (i : Instr) (crossed : Bool) (extra : Nat) (s : State) : State :=
  s.setCycles (baseCycles i + pagePenalty s.params i crossed + extra)

/-- The meaning of an instruction with an operand: resolve the mode, run the handler, report the cycles (R72). A form the
mnemonic does not have is refused. -/
def withOperand (i : Instr) (modes : List Mode) (m : Operand) (handler : Opnd → State → Result State) (s : State) :
    Result State :=
  if m.mode ∈ modes then
    andThen (handler (resolve m s).opnd s) fun t => .next (finish i (resolve m s).crossed 0 t)
  else .refused .noSuchForm

/-- A handler that loads its operand once and changes registers by it. -/
def loadThen (f : Byte → State → State) (o : Opnd) (s : State) : Result State :=
  andThen (load o s) fun r => .next (f r.1 r.2)

/-- A handler that reads its operand once and writes the computed byte back to it once (R97). -/
def modify (f : ByteOp) (o : Opnd) (s : State) : Result State :=
  andThen (load o s) fun r =>
    andThen (store o (f r.1 r.2.p).1 r.2) fun t => .next (t.setP (f r.1 r.2.p).2)

/-- The meaning of an implied instruction that only changes registers or the stack. -/
def implied (i : Instr) (f : State → State) (s : State) : Result State := .next (finish i false 0 (f s))

end Sys2Proof.Machine
end

