-- ==== Sys2Proof/Machine/Arith.lean ====
section
/-! DEFINITION. Arithmetic, compare, logic, increments and decrements (43_arith_logic.md R110 to R127). -/

namespace Sys2Proof.Machine

/-- ADC (R112): A + m + C, binary whatever D holds (R110). -/
def execAdc (m : Operand) (s : State) : Result State :=
  withOperand (.adc m) accumulatorModes m
    (loadThen fun v t => (t.setA (addCore t.a v (flag .c t.p)).r).setP (addFlags (addCore t.a v (flag .c t.p)) t.p)) s

/-- SBC (R113): the addition path with the complemented operand. -/
def execSbc (m : Operand) (s : State) : Result State :=
  withOperand (.sbc m) accumulatorModes m
    (loadThen fun v t =>
      (t.setA (addCore t.a (~~~v) (flag .c t.p)).r).setP (addFlags (addCore t.a (~~~v) (flag .c t.p)) t.p)) s

/-- CMP (R115). -/
def execCmp (m : Operand) (s : State) : Result State :=
  withOperand (.cmp m) accumulatorModes m (loadThen fun v t => t.setP (compareFlags t.params t.a v t.p)) s

/-- CPX (R116). -/
def execCpx (m : Operand) (s : State) : Result State :=
  withOperand (.cpx m) indexCompareModes m (loadThen fun v t => t.setP (compareFlags t.params t.x v t.p)) s

/-- CPY (R117). -/
def execCpy (m : Operand) (s : State) : Result State :=
  withOperand (.cpy m) indexCompareModes m (loadThen fun v t => t.setP (compareFlags t.params t.y v t.p)) s

/-- AND (R118). -/
def execAnd (m : Operand) (s : State) : Result State :=
  withOperand (.and m) accumulatorModes m (loadThen fun v t => (t.setA (t.a &&& v)).setP (setNZ (t.a &&& v) t.p)) s

/-- ORA (R119). -/
def execOra (m : Operand) (s : State) : Result State :=
  withOperand (.ora m) accumulatorModes m (loadThen fun v t => (t.setA (t.a ||| v)).setP (setNZ (t.a ||| v) t.p)) s

/-- EOR (R120). -/
def execEor (m : Operand) (s : State) : Result State :=
  withOperand (.eor m) accumulatorModes m (loadThen fun v t => (t.setA (t.a ^^^ v)).setP (setNZ (t.a ^^^ v) t.p)) s

/-- BIT (R121): A is not written. -/
def execBit (m : Operand) (s : State) : Result State :=
  withOperand (.bit m) bitModes m (loadThen fun v t => t.setP (bitFlags t.a v t.p)) s

/-- INC (R122). -/
def execInc (m : Operand) (s : State) : Result State := withOperand (.inc m) incrementModes m (modify incrementOp) s

/-- DEC (R123). -/
def execDec (m : Operand) (s : State) : Result State := withOperand (.dec m) incrementModes m (modify decrementOp) s

/-- INX (R124). -/
def execInx (s : State) : Result State := implied .inx (fun t => (t.setX (t.x + 1)).setP (setNZ (t.x + 1) t.p)) s

/-- INY (R125). -/
def execIny (s : State) : Result State := implied .iny (fun t => (t.setY (t.y + 1)).setP (setNZ (t.y + 1) t.p)) s

/-- DEX (R126). -/
def execDex (s : State) : Result State := implied .dex (fun t => (t.setX (t.x - 1)).setP (setNZ (t.x - 1) t.p)) s

/-- DEY (R127). -/
def execDey (s : State) : Result State := implied .dey (fun t => (t.setY (t.y - 1)).setP (setNZ (t.y - 1) t.p)) s

end Sys2Proof.Machine
end

