-- ==== Sys2Proof/Machine/Branch.lean ====
section
/-! DEFINITION. Branches, jumps, calls and returns (45_branch_jump.md R132 to R143). -/

namespace Sys2Proof.Machine

/-- `branch_extra` (R132): 0 not taken, 1 taken within the page of the next instruction, 2 taken to another page. -/
def branchExtra (cond : Bool) (off : Byte) (s : State) : Nat :=
  if cond then if pageOf (branchTarget off s) != pageOf s.pc then 2 else 1 else 0

/-- `Branch(cond, Addr(target))` (R132). -/
def branch (i : Instr) (cond : Bool) (off : Byte) (s : State) : Result State :=
  .next (finish i false (branchExtra cond off s) (if cond then s.setPc (branchTarget off s) else s))

/-- BCC (R133). -/
def execBcc (off : Byte) (s : State) : Result State := branch (.bcc off) (!flag .c s.p) off s

/-- BCS (R134). -/
def execBcs (off : Byte) (s : State) : Result State := branch (.bcs off) (flag .c s.p) off s

/-- BEQ (R135). -/
def execBeq (off : Byte) (s : State) : Result State := branch (.beq off) (flag .z s.p) off s

/-- BNE (R136). -/
def execBne (off : Byte) (s : State) : Result State := branch (.bne off) (!flag .z s.p) off s

/-- BMI (R137). -/
def execBmi (off : Byte) (s : State) : Result State := branch (.bmi off) (flag .n s.p) off s

/-- BPL (R138). -/
def execBpl (off : Byte) (s : State) : Result State := branch (.bpl off) (!flag .n s.p) off s

/-- BVC (R139). -/
def execBvc (off : Byte) (s : State) : Result State := branch (.bvc off) (!flag .v s.p) off s

/-- BVS (R140). -/
def execBvs (off : Byte) (s : State) : Result State := branch (.bvs off) (flag .v s.p) off s

/-- JMP (R141). -/
def execJmp (j : JumpOperand) (s : State) : Result State :=
  andThen (resolveJump j s) fun r => .next (finish (.jmp j) false 0 (r.2.setPc r.1))

/-- JSR (R142): push the address of the JSR's last byte, high byte first. -/
def execJsr (w : Word) (s : State) : Result State :=
  implied (.jsr w) (fun t => (pushWord (t.pc - 1) t).setPc w) s

/-- RTS (R143): pull the low and the high byte, and add 1. -/
def execRts (s : State) : Result State :=
  implied .rts (fun t => (pulled (pulled t)).setPc (pullWord t + 1)) s

end Sys2Proof.Machine
end

