-- ==== Sys2Proof/Machine/LoadStore.lean ====
section
/-! DEFINITION. Loads, stores and register transfers (42_load_store_transfer.md R98 to R109). -/

namespace Sys2Proof.Machine

/-- LDA (R98). -/
def execLda (m : Operand) (s : State) : Result State :=
  withOperand (.lda m) accumulatorModes m (loadThen fun v t => (t.setA v).setP (setNZ v t.p)) s

/-- LDX (R99). -/
def execLdx (m : Operand) (s : State) : Result State :=
  withOperand (.ldx m) ldxModes m (loadThen fun v t => (t.setX v).setP (setNZ v t.p)) s

/-- LDY (R100). -/
def execLdy (m : Operand) (s : State) : Result State :=
  withOperand (.ldy m) ldyModes m (loadThen fun v t => (t.setY v).setP (setNZ v t.p)) s

/-- STA (R101): one write, no read of the effective address, no flag. -/
def execSta (m : Operand) (s : State) : Result State :=
  withOperand (.sta m) staModes m (fun o t => store o t.a t) s

/-- STX (R102). -/
def execStx (m : Operand) (s : State) : Result State :=
  withOperand (.stx m) stxModes m (fun o t => store o t.x t) s

/-- STY (R103). -/
def execSty (m : Operand) (s : State) : Result State :=
  withOperand (.sty m) styModes m (fun o t => store o t.y t) s

/-- TAX (R104). -/
def execTax (s : State) : Result State := implied .tax (fun t => (t.setX t.a).setP (setNZ t.a t.p)) s

/-- TAY (R105). -/
def execTay (s : State) : Result State := implied .tay (fun t => (t.setY t.a).setP (setNZ t.a t.p)) s

/-- TXA (R106). -/
def execTxa (s : State) : Result State := implied .txa (fun t => (t.setA t.x).setP (setNZ t.x t.p)) s

/-- TYA (R107). -/
def execTya (s : State) : Result State := implied .tya (fun t => (t.setA t.y).setP (setNZ t.y t.p)) s

/-- TSX (R108). -/
def execTsx (s : State) : Result State := implied .tsx (fun t => (t.setX t.sp).setP (setNZ t.sp t.p)) s

/-- TXS (R109): the only transfer that writes no flag. -/
def execTxs (s : State) : Result State := implied .txs (fun t => t.setSp t.x) s

end Sys2Proof.Machine
end

