-- ==== Sys2Proof/Machine/Shift.lean ====
section
/-! DEFINITION. Shifts and rotates, on A or on memory (44_shift_rotate.md R128 to R131). -/

namespace Sys2Proof.Machine

/-- ASL (R128). -/
def execAsl (m : Operand) (s : State) : Result State := withOperand (.asl m) shiftModes m (modify aslOp) s

/-- LSR (R129). -/
def execLsr (m : Operand) (s : State) : Result State := withOperand (.lsr m) shiftModes m (modify lsrOp) s

/-- ROL (R130). -/
def execRol (m : Operand) (s : State) : Result State := withOperand (.rol m) shiftModes m (modify rolOp) s

/-- ROR (R131). -/
def execRor (m : Operand) (s : State) : Result State := withOperand (.ror m) shiftModes m (modify rorOp) s

end Sys2Proof.Machine
end

