-- ==== Sys2Proof/Machine/System.lean ====
section
/-! DEFINITION. Stack, status-flag and system instructions (46_stack_flag_system.md R145 to R158) and the unknown opcodes
(40_dispatch.md R77). -/

namespace Sys2Proof.Machine

/-- PHA (R145). -/
def execPha (s : State) : Result State := implied .pha (fun t => push t.a t) s

/-- PLA (R146). -/
def execPla (s : State) : Result State :=
  implied .pla (fun t => ((pulled t).setA (pullByte t)).setP (setNZ (pullByte t) t.p)) s

/-- PHP (R147): the pushed copy has U and B set; the live P is unchanged. -/
def execPhp (s : State) : Result State := implied .php (fun t => push (pushedByProgram t.p) t) s

/-- PLP (R148). -/
def execPlp (s : State) : Result State := implied .plp (fun t => (pulled t).setP (pulledStatus (pullByte t))) s

/-- BRK (R149): PC is the address of BRK + 1, and the byte after BRK is skipped. -/
def execBrk (s : State) : Result State :=
  andThen (enterInterrupt irqVector (s.pc + 1) (pushedByProgram s.p) s) fun t => .next (finish .brk false 0 t)

/-- RTI (R150). -/
def execRti (s : State) : Result State := implied .rti returnFromInterrupt s

/-- CLC (R151). -/
def execClc (s : State) : Result State := implied .clc (fun t => t.setP (setFlag .c false t.p)) s

/-- SEC (R152). -/
def execSec (s : State) : Result State := implied .sec (fun t => t.setP (setFlag .c true t.p)) s

/-- CLI (R153). -/
def execCli (s : State) : Result State := implied .cli (fun t => t.setP (setFlag .i false t.p)) s

/-- SEI (R154). -/
def execSei (s : State) : Result State := implied .sei (fun t => t.setP (setFlag .i true t.p)) s

/-- CLD (R155). -/
def execCld (s : State) : Result State := implied .cld (fun t => t.setP (setFlag .d false t.p)) s

/-- SED (R156). -/
def execSed (s : State) : Result State := implied .sed (fun t => t.setP (setFlag .d true t.p)) s

/-- CLV (R157). -/
def execClv (s : State) : Result State := implied .clv (fun t => t.setP (setFlag .v false t.p)) s

/-- NOP (R158). -/
def execNop (s : State) : Result State := implied .nop (fun t => t) s

/-- An unknown opcode (R77): no register but PC, no flag and no memory changes; `ILLEGAL_CYCLES(op)` cycles. -/
def execUnknown (op : Byte) (s : State) : Result State :=
  if op ∈ unknownOpcodes then implied (.unknown op) (fun t => t) s else .refused .noSuchForm

end Sys2Proof.Machine
end

