-- ==== Sys2Proof/Machine/Step.lean ====
section
/-! DEFINITION. One step of the CPU (40_dispatch.md R72), and the placing of an instruction where the next step fetches. -/

namespace Sys2Proof.Machine

/-- `step()`: fetch one instruction and run it. Before the first reset PC has no value, and reading it faults
(70_reset_and_hazards.md R200). -/
def step (s : State) : Host.Outcome State Fault Refusal :=
  if s.cpuSet then andThen (fetch s) fun r => exec r.1 r.2 else .fault (.unset .pc)

/-- `s` with the instruction of bits `w` (below bit `nbits`; 0 above) where `step` fetches next: in RAM or in the cartridge,
as a program comes to be there from outside the machine (log entry 8). Where PC is at an address that can hold none, in the
PPU window or the unmapped range, the instruction is placed at 0x0000 and PC is set there. -/
def State.withFetchWord (s : State) (nbits w : Nat) : State :=
  let at0 := if placeable s.pc && placeable (s.pc + 1) && placeable (s.pc + 2) then s.pc else 0x0000
  placeBytes at0 (tableBytes nbits w) { s with pc := at0, cpuSet := true }

end Sys2Proof.Machine
end

