-- ==== Sys2Proof/Machine/Render.lean ====
section
/-! DEFINITION. The PPU rasterizer (51_ppu_rendering.md R172 to R182): a frame computed from the state, which it does not
change. -/

namespace Sys2Proof.Machine

/-- The frame sink: WIDTH × HEIGHT × 3 bytes, row-major RGB (R182). -/
abbrev Frame := List Byte

/-- WIDTH (R182, D33). -/
def frameWidth : Nat := 256

/-- HEIGHT (R182, D33). -/
def frameHeight : Nat := 240

/-- `F.set_pixel(x, y, (r, g, b))` (R182): out-of-range coordinates are silently discarded. -/
def setPixel (x y : Nat) (c : Rgb) (f : Frame) : Frame :=
  if x < frameWidth ∧ y < frameHeight then
    let k := (y * frameWidth + x) * 3
    ((f.set k c.r).set (k + 1) c.g).set (k + 2) c.b
  else f

/-- The pixel (x, y) of a frame. -/
def framePixel (f : Frame) (x y : Nat) : Rgb :=
  let k := (y * frameWidth + x) * 3
  { r := f.getD k 0, g := f.getD (k + 1) 0, b := f.getD (k + 2) 0 }

/-- A fresh frame (R172); what it holds before the passes reaches no output. -/
def freshFrame : Frame := List.replicate (frameWidth * frameHeight * 3) 0

/-- Run `body` for each number of a list, in order, stopping at the first fault. -/
def forEach {α : Type} : List Nat → (Nat → α → Result α) → α → Result α
  | [], _, x => .next x
  | n :: ns, body, x => andThen (body n x) fun y => forEach ns body y

/-- `bg_table_base` (10_state.md R31): bit 4 of the Control register. -/
def bgTableBase (ctrl : Byte) : Nat := if ctrl.getLsbD 4 then 0x1000 else 0x0000

/-- `sprite_table_base` (10_state.md R31): bit 3 of the Control register. -/
def spriteTableBase (ctrl : Byte) : Nat := if ctrl.getLsbD 3 then 0x1000 else 0x0000

/-- `TilePixel(base, t, x, y)` (R176): the colour index 0..3, bit 1 from the second bit-plane; bit 7 is the leftmost
pixel. -/
def tilePixel (base : Nat) (t : Byte) (x y : Nat) (m : Mapper) : Result Nat :=
  andThen (readChr (base + t.toNat * 16 + y) m) fun lower =>
    andThen (readChr (base + t.toNat * 16 + y + 8) m) fun upper =>
      .next (2 * (upper.getLsbD (7 - x)).toNat + (lower.getLsbD (7 - x)).toNat)

/-- `AttrSelect(col, row)` (R175): the two bits of the attribute byte for the 2×2 quadrant of the tile. -/
def attrSelect (u : Ppu) (col row : Nat) : Nat :=
  let ab := memRead u.vram (0x3C0 + row / 4 * 8 + col / 4)
  match col % 4 / 2, row % 4 / 2 with
  | 0, 0 => (ab.extractLsb' 0 2).toNat
  | 1, 0 => (ab.extractLsb' 2 2).toNat
  | 0, _ => (ab.extractLsb' 4 2).toNat
  | _, _ => (ab.extractLsb' 6 2).toNat

/-- `BgPalette(p)[v]` (R177): entry 0 is shared by every background palette. -/
def bgPalette (u : Ppu) (p v : Nat) : Byte := if v = 0 then memRead u.palette 0 else memRead u.palette (4 * p + v)

/-- `SpritePalette(q)[v]` (R181); entry 0 is never looked up. -/
def spritePalette (u : Ppu) (q v : Nat) : Byte := memRead u.palette (0x10 + 4 * q + v)

/-- `ColourOf(e) = SYS_PALETTE[e & 0x3F]` (R178). -/
def colourOf (e : Byte) : Rgb := Config.sysPalette (e.extractLsb' 0 6)

/-- The colour of pixel (x, y) of tile `i` of the first nametable (R174). -/
def bgColour (s : State) (i x y : Nat) : Result Rgb :=
  andThen (tilePixel (bgTableBase s.ppu.ctrl) (memRead s.ppu.vram i) x y s.mapper) fun v =>
    .next (colourOf (bgPalette s.ppu (attrSelect s.ppu (i % 32) (i / 32)) v))

/-- One tile of the background pass (R174). -/
def bgTile (s : State) (i : Nat) (f : Frame) : Result Frame :=
  forEach (List.range 8) (fun y g =>
    forEach (List.range 8) (fun x h =>
      andThen (bgColour s i x y) fun c => .next (setPixel (i % 32 * 8 + x) (i / 32 * 8 + y) c h)) g) f

/-- `BgPass(F)` (R174): the 960 tiles in increasing order. -/
def bgPass (s : State) (f : Frame) : Result Frame := forEach (List.range 960) (bgTile s) f

/-- `Flip(at, x, y)` (R180): bit 6 flips horizontally, bit 7 vertically. -/
def flip (attr : Byte) (x y : Nat) : Nat × Nat :=
  (if attr.getLsbD 6 then 7 - x else x, if attr.getLsbD 7 then 7 - y else y)

/-- One pixel of sprite `n` (R179): colour index 0 is transparent; the flip moves the destination only. -/
def spritePixel (s : State) (n x y : Nat) (f : Frame) : Result Frame :=
  let sy := memRead s.ppu.oam (4 * n)
  let t := memRead s.ppu.oam (4 * n + 1)
  let attr := memRead s.ppu.oam (4 * n + 2)
  let sx := memRead s.ppu.oam (4 * n + 3)
  andThen (tilePixel (spriteTableBase s.ppu.ctrl) t x y s.mapper) fun v =>
    if v = 0 then .next f
    else
      .next (setPixel (sx.toNat + (flip attr x y).1) (sy.toNat + (flip attr x y).2)
        (colourOf (spritePalette s.ppu (attr.extractLsb' 0 2).toNat v)) f)

/-- One sprite of the sprite pass (R179). -/
def spriteTile (s : State) (n : Nat) (f : Frame) : Result Frame :=
  forEach (List.range 8) (fun y g => forEach (List.range 8) (fun x h => spritePixel s n x y h) g) f

/-- `SpritePass(F)` (R179): entries 63 down to 0, so that entry 0 is in front. -/
def spritePass (s : State) (f : Frame) : Result Frame := forEach (List.range 64).reverse (spriteTile s) f

/-- The two passes over a reused frame (R172). -/
def renderInto (s : State) (f : Frame) : Result Frame := andThen (bgPass s f) fun g => spritePass s g

/-- `Render()` (R172). -/
def render (s : State) : Result Frame := renderInto s freshFrame

end Sys2Proof.Machine
end

