-- ==== Sys2Proof/Machine/HostActions.lean ====
section
/-! DEFINITION. What the host may do to the machine (60_exceptions.md R193): reset, step, IRQ, NMI, render, set_status, one
action after another; attaching the cartridge is part of State.powerOn, and a run stops at the end of its list. -/

namespace Sys2Proof.Machine

/-- `reset()` (70_reset_and_hazards.md R199): the CPU registers; RAM, VRAM, OAM, the palette and every PPU register and
latch unchanged. It reads no CPU register. -/
def resetAction (s : State) : Result State :=
  andThen (read16 resetVector s) fun r =>
    .next { r.2 with a := 0x00, x := 0x00, y := 0x00, sp := 0xFD, p := 0x00, pc := r.1, cpuSet := true, cycles := 8 }

/-- `IRQ()` (60_exceptions.md R186): dropped while I is set, with no change but the 0 cycles it returns. -/
def irqAction (s : State) : Result State :=
  if !s.cpuSet then .fault (.unset .p)
  else if flag .i s.p then .next (s.setCycles 0)
  else andThen (enterInterrupt irqVector s.pc (pushedByInterrupt s.p) s) fun t => .next (t.setCycles 7)

/-- `NMI()` (R187): unconditional. -/
def nmiAction (s : State) : Result State :=
  if !s.cpuSet then .fault (.unset .pc)
  else andThen (enterInterrupt nmiVector s.pc (pushedByInterrupt s.p) s) fun t => .next (t.setCycles 8)

/-- `set_status(v)` (R193): the host's stand-in for the PPU timing. -/
def setStatusAction (v : Byte) (s : State) : State := s.setPpu { s.ppu with status := v }

/-- The actions of R193 that happen during a run. -/
inductive HostAction where
  | reset
  | step
  | irq
  | nmi
  | render
  | setStatus (v : Byte)
  deriving DecidableEq, Repr

/-- What the host gets back (R193). -/
inductive Reply where
  | nothing
  | cycles (n : Nat)
  | frame (f : Frame)
  deriving DecidableEq, Repr

/-- An action that returns the cycles it took. -/
def withCycles (r : Result State) : Result (State × Reply) := andThen r fun t => .next (t, .cycles t.cycles)

/-- One host action (R193). -/
def HostAction.perform (h : HostAction) (s : State) : Result (State × Reply) :=
  match h with
  | .reset => withCycles (resetAction s)
  | .step => withCycles (Sys2Proof.Machine.step s)
  | .irq => withCycles (irqAction s)
  | .nmi => withCycles (nmiAction s)
  | .render => andThen (Sys2Proof.Machine.render s) fun f => .next (s, .frame f)
  | .setStatus v => .next (setStatusAction v s, .nothing)

/-- A run: the actions in the host's order, each to completion before the next (20_memory.md R56); a Fault ends it
(60_exceptions.md R184). -/
def performAll : List HostAction → State → Result (State × List Reply)
  | [], s => .next (s, [])
  | h :: hs, s =>
    andThen (h.perform s) fun r =>
      andThen (performAll hs r.1) fun q => .next (q.1, r.2 :: q.2)

/-- A byte that a Bus read would return without changing anything: RAM, the unmapped range and the served PRG bytes, but
no PPU register (20_memory.md R43). -/
def peek (a : Word) (s : State) : Option Byte :=
  match busTarget a with
  | .ram i => some (memRead s.ram i)
  | .ppu _ => none
  | .unmapped => some 0x00
  | .prg off => prgAt s.mapper off

/-- The halt idiom (60_exceptions.md R195): the three bytes at PC are `4C lo hi` with `(hi : lo) = PC`. R195 speaks of
programs run after reset and of bytes that can be read: before the first reset, where PC has no value, and where one of the
three bytes cannot be read without an effect or a fault, the answer is false (DESIGN CHOICE, safe; log entry 19). -/
def atHaltIdiom (s : State) : Bool :=
  s.cpuSet && peek s.pc s == some 0x4C && peek (s.pc + 1) s == some (loByte s.pc) && peek (s.pc + 2) s == some (hiByte s.pc)

/-- One tick of the host's clock loop (60_exceptions.md R194, D46): a step when no cycle remains, then one cycle less. -/
def tick (remaining : Nat) (s : State) : Result (Nat × State) :=
  if remaining = 0 then andThen (step s) fun t => .next (t.cycles - 1, t) else .next (remaining - 1, s)

end Sys2Proof.Machine
end

