-- ==== Sys2Proof/Safety.lean ====
section
/-! DEFINITION. The terms claims are stated in: when a Bus access does not fault, the invariant of the machine, and what the
opcode table says each instruction may write. -/

namespace Sys2Proof.Machine

/-- The PPU address leads somewhere (20_memory.md R48, R51). -/
def routed (ps : Params) (mode : MirrorMode) (a : Word) : Bool := decide (ppuTarget ps mode a ≠ .unrouted)

/-- A PPUDATA read finds a byte: the target is routed, and served where it is CHR. -/
def dataReadOk (s : State) : Bool :=
  match ppuTarget s.params s.mapper.mirror s.ppu.vaddr with
  | .chr off => (chrAt s.mapper off).isSome
  | .vram _ => true
  | .palette _ => true
  | .unrouted => false

/-- The accesses the document does not define do not fault (50_ppu_registers.md R171). -/
def undefinedPortsOk (s : State) : Bool := decide (s.params.undefinedPort = .hw)

/-- A CPU read of the PPU register does not fault. -/
def portReadOk (r : PpuReg) (s : State) : Bool :=
  match r with
  | .status => true
  | .oamData => true
  | .data => dataReadOk s
  | .ctrl => undefinedPortsOk s
  | .mask => undefinedPortsOk s
  | .oamAddr => undefinedPortsOk s
  | .scroll => undefinedPortsOk s
  | .addr => undefinedPortsOk s

/-- A Bus read at the address does not fault. -/
def readOk (a : Word) (s : State) : Bool :=
  match busTarget a with
  | .ram _ => true
  | .ppu r => portReadOk r s
  | .unmapped => true
  | .prg off => (prgAt s.mapper off).isSome

/-- A Bus write at the address does not fault. -/
def writeOk (a : Word) (s : State) : Bool :=
  match busTarget a with
  | .ppu .status => undefinedPortsOk s
  | .ppu .data => routed s.params s.mapper.mirror s.ppu.vaddr
  | _ => true

/-- A Bus read and then a write at the same address do not fault (70_reset_and_hazards.md R206): between them PPUDATA
advances its address. -/
def modifyOk (a : Word) (s : State) : Bool :=
  readOk a s &&
    match busTarget a with
    | .ppu .status => undefinedPortsOk s
    | .ppu .data => routed s.params s.mapper.mirror (advanceVaddr (vramIncrement s.ppu.ctrl) s.ppu.vaddr)
    | _ => true

/-- Loading the operand does not fault. -/
def operandReadOk (m : Operand) (s : State) : Bool :=
  match (resolve m s).opnd with
  | .acc => true
  | .imm _ => true
  | .addr ea => readOk ea s

/-- Loading the operand and storing to it does not fault. -/
def operandModifyOk (m : Operand) (s : State) : Bool :=
  match (resolve m s).opnd with
  | .acc => true
  | .imm _ => false
  | .addr ea => modifyOk ea s

/-- Both bytes of the word at the address can be read without an effect (a vector, a pointer outside the PPU window). -/
def wordAt (a : Word) (s : State) : Option Word :=
  match peek a s, peek (a + 1) s with
  | some l, some h => some (joinBytes h l)
  | _, _ => none

/-- `Load(opnd)` in `s` gives `v` and leaves `t` (41_addressing.md R94): A, the immediate byte, or one Bus read. -/
def Loaded (o : Opnd) (s : State) (v : Byte) (t : State) : Prop :=
  match o with
  | .acc => v = s.a ∧ t = s
  | .imm b => v = b ∧ t = s
  | .addr ea => busRead ea s = .next (v, t)

/-- `Store(opnd, v)` in `s` leaves `t` (41_addressing.md R95): A written, or one Bus write; nothing stores to IMM. -/
def Stored (o : Opnd) (v : Byte) (s t : State) : Prop :=
  match o with
  | .acc => t = { s with a := v }
  | .imm _ => False
  | .addr ea => busWrite ea v s = .next t

/-- The base counts of R67 for the instructions that only read their operand, by mode. -/
def readCount : Mode → Nat
  | .imm => 2
  | .zp0 => 3
  | .zpx | .zpy | .abs | .abx | .aby => 4
  | .izx => 6
  | .izy => 5
  | .imp | .acc | .abj | .ind | .rel => 0

/-- The base counts of R67 for the stores, by mode. -/
def storeCount : Mode → Nat
  | .zp0 => 3
  | .zpx | .zpy | .abs => 4
  | .abx | .aby => 5
  | .izx | .izy => 6
  | .imp | .acc | .imm | .abj | .ind | .rel => 0

/-- The base counts of R67 for the read-modify-write instructions, by mode. -/
def modifyCount : Mode → Nat
  | .acc => 2
  | .zp0 => 5
  | .zpx | .abs => 6
  | .abx => 7
  | .imp | .imm | .zpy | .abj | .aby | .ind | .izx | .izy | .rel => 0

/-- The base cycle count of an instruction by its class and mode, as the column of R67 and the instructions' rules give it,
and `ILLEGAL_CYCLES` for an unknown opcode (R77). It does not use the decoder's table. -/
def countOf : Instr → Nat
  | .lda m | .ldx m | .ldy m | .adc m | .sbc m | .cmp m | .cpx m | .cpy m | .and m | .ora m | .eor m | .bit m =>
    readCount m.mode
  | .sta m | .stx m | .sty m => storeCount m.mode
  | .inc m | .dec m | .asl m | .lsr m | .rol m | .ror m => modifyCount m.mode
  | .tax | .tay | .txa | .tya | .tsx | .txs | .inx | .iny | .dex | .dey
  | .clc | .sec | .cli | .sei | .cld | .sed | .clv | .nop
  | .bcc _ | .bcs _ | .beq _ | .bne _ | .bmi _ | .bpl _ | .bvc _ | .bvs _ => 2
  | .jmp (.abj _) | .pha | .php => 3
  | .pla | .plp => 4
  | .jmp (.ind _) => 5
  | .jsr _ | .rts | .rti => 6
  | .brk => 7
  | .unknown op => Config.illegalCycles op

/-- The cycle count of an instruction with an operand: `base + PagePenalty` (40_dispatch.md R76, 41_addressing.md R96). -/
def cost (i : Instr) (m : Operand) (s : State) : Nat :=
  countOf i + (if (resolve m s).crossed = true ∧ (s.params.pagePenalty = .all ∨
    i ∈ [.adc m, .and m, .cmp m, .eor m, .lda m, .ldx m, .ldy m, .ora m, .sbc m]) then 1 else 0)

/-- Every memory of the core is in its canonical form, of the size of 10_state.md R28 and R30. -/
abbrev MemoriesWf (s : State) : Prop :=
  Memory.wf 0x800 s.ram = true ∧ Memory.wf 0x800 s.ppu.vram = true ∧ Memory.wf 0x100 s.ppu.oam = true ∧
    Memory.wf 0x20 s.ppu.palette = true

/-- The cartridge's memories are in their canonical form. -/
abbrev CartridgeWf (m : Mapper) : Prop := Memory.wf 0x8000 m.prg = true ∧ Memory.wf 0x2000 m.chr = true

/-- The invariant: canonical memories, the VRAM address at most 0x3FFF (10_state.md R30), the live B and U bits 0
(10_state.md R25). -/
abbrev Inv (s : State) : Prop :=
  MemoriesWf s ∧ CartridgeWf s.mapper ∧ s.ppu.vaddr.toNat ≤ 0x3FFF ∧ flag .b s.p = false ∧ flag .u s.p = false

/-- The data registers and SP that an instruction may write, by its rule; PC and P are apart. -/
def writtenRegs : Instr → List CpuReg
  | .lda _ | .adc _ | .sbc _ | .and _ | .ora _ | .eor _ | .txa | .tya => [.a]
  | .ldx _ | .tax | .tsx | .inx | .dex => [.x]
  | .ldy _ | .tay | .iny | .dey => [.y]
  | .asl m | .lsr m | .rol m | .ror m => if m = .acc then [.a] else []
  | .pla => [.a, .sp]
  | .txs | .pha | .php | .plp | .jsr _ | .rts | .brk | .rti => [.sp]
  | .sta _ | .stx _ | .sty _ | .cmp _ | .cpx _ | .cpy _ | .bit _ | .inc _ | .dec _
  | .bcc _ | .bcs _ | .beq _ | .bne _ | .bmi _ | .bpl _ | .bvc _ | .bvs _ | .jmp _
  | .clc | .sec | .cli | .sei | .cld | .sed | .clv | .nop | .unknown _ => []

/-- The flags that an instruction may write: the table of 10_state.md R26. -/
def writtenFlags (ps : Params) : Instr → List Flag
  | .adc _ | .sbc _ => [.n, .v, .z, .c]
  | .cmp _ | .cpx _ | .cpy _ => if ps.cmpWritesV then [.n, .v, .z, .c] else [.n, .z, .c]
  | .and _ | .ora _ | .eor _ | .inc _ | .dec _ | .inx | .iny | .dex | .dey | .lda _ | .ldx _ | .ldy _
  | .tax | .tay | .txa | .tya | .tsx | .pla => [.n, .z]
  | .asl _ | .lsr _ | .rol _ | .ror _ => [.n, .z, .c]
  | .bit _ => [.n, .v, .z]
  | .clc | .sec => [.c]
  | .cli | .sei | .brk => [.i]
  | .cld | .sed => [.d]
  | .clv => [.v]
  | .plp | .rti => [.n, .v, .u, .b, .d, .i, .z, .c]
  | .sta _ | .stx _ | .sty _ | .txs
  | .bcc _ | .bcs _ | .beq _ | .bne _ | .bmi _ | .bpl _ | .bvc _ | .bvs _ | .jmp _ | .jsr _ | .rts
  | .pha | .php | .nop | .unknown _ => []

/-- The address an instruction's operand accessor stores to: that of its resolved operand, for the stores and the
read-modify-write instructions. -/
def storeAddress (i : Instr) (s : State) : Option Word :=
  match i with
  | .sta m | .stx m | .sty m | .inc m | .dec m | .asl m | .lsr m | .rol m | .ror m =>
    match (resolve m s).opnd with
    | .addr ea => some ea
    | .acc => none
    | .imm _ => none
  | _ => none

/-- The RAM indexes an instruction pushes to, from the SP it finds (46_stack_flag_system.md R144). -/
def stackStores (i : Instr) (s : State) : List Nat :=
  match i with
  | .pha | .php => [stackIndex s.sp]
  | .jsr _ => [stackIndex s.sp, stackIndex (s.sp - 1)]
  | .brk => [stackIndex s.sp, stackIndex (s.sp - 1), stackIndex (s.sp - 1 - 1)]
  | _ => []

/-- The operand of an instruction that goes through the operand accessor (41_addressing.md R94). -/
def operandOf : Instr → Option Operand
  | .lda m | .ldx m | .ldy m | .sta m | .stx m | .sty m | .adc m | .sbc m | .cmp m | .cpx m | .cpy m
  | .and m | .ora m | .eor m | .bit m | .inc m | .dec m | .asl m | .lsr m | .rol m | .ror m => some m
  | .tax | .tay | .txa | .tya | .tsx | .txs | .inx | .iny | .dex | .dey
  | .bcc _ | .bcs _ | .beq _ | .bne _ | .bmi _ | .bpl _ | .bvc _ | .bvs _ | .jmp _ | .jsr _ | .rts
  | .pha | .pla | .php | .plp | .brk | .rti | .clc | .sec | .cli | .sei | .cld | .sed | .clv | .nop
  | .unknown _ => none

/-- The instructions that transfer control (45_branch_jump.md, R149, R150). -/
def transfersControl : Instr → Bool
  | .bcc _ | .bcs _ | .beq _ | .bne _ | .bmi _ | .bpl _ | .bvc _ | .bvs _ | .jmp _ | .jsr _ | .rts | .brk | .rti => true
  | _ => false

/-- `q` is `p` with N and Z set from the byte `r` (00_scope.md R12) and every other flag unchanged. -/
def NZFrom (r p q : Byte) : Prop :=
  flag .n q = r.getLsbD 7 ∧ flag .z q = decide (r = 0) ∧ ∀ f : Flag, f ≠ .n → f ≠ .z → flag f q = flag f p

/-- `q` is `p` with N and Z set from the byte `r`, C set to `c`, and every other flag unchanged. -/
def NZCFrom (r : Byte) (c : Bool) (p q : Byte) : Prop :=
  flag .n q = r.getLsbD 7 ∧ flag .z q = decide (r = 0) ∧ flag .c q = c ∧
    ∀ f : Flag, f ≠ .n → f ≠ .z → f ≠ .c → flag f q = flag f p

/-- `q` is `p` with one flag set to `b` and every other flag unchanged. -/
def OneFlag (f : Flag) (b : Bool) (p q : Byte) : Prop := flag f q = b ∧ ∀ g : Flag, g ≠ f → flag g q = flag g p

/-- `a` is an address of PPU register `k` in the window (20_memory.md R39). -/
def PortAddress (k : Nat) (a : Word) : Prop := 0x2000 ≤ a.toNat ∧ a.toNat < 0x4000 ∧ (a.toNat - 0x2000) % 8 = k

/-- `q` is `p` with the flags of the sum `a + m + c`, whose byte is `r` (43_arith_logic.md R111): N, Z of the byte, C the
carry out of 8 bits, V when the operands share a sign and the byte's sign differs; every other flag unchanged. -/
def SumFlags (a m : Byte) (c : Bool) (r p q : Byte) : Prop :=
  r.toNat = (a.toNat + m.toNat + c.toNat) % 256 ∧
    flag .n q = r.getLsbD 7 ∧ flag .z q = decide (r = 0) ∧
    flag .c q = decide (256 ≤ a.toNat + m.toNat + c.toNat) ∧
    flag .v q = (decide (a.getLsbD 7 = m.getLsbD 7) && decide (r.getLsbD 7 ≠ a.getLsbD 7)) ∧
    ∀ f : Flag, f ≠ .n → f ≠ .v → f ≠ .z → f ≠ .c → flag f q = flag f p

/-- `q` is `p` with the flags of comparing `reg` with `m` (43_arith_logic.md R114): C of reg ≥ m unsigned, Z of reg = m,
N bit 7 of reg − m, V the signed overflow of reg − m when `CMP_WRITES_V`; every other flag unchanged. -/
def ComparesTo (ps : Params) (reg m p q : Byte) : Prop :=
  flag .n q = (reg - m).getLsbD 7 ∧ flag .z q = decide (reg = m) ∧ flag .c q = decide (m.toNat ≤ reg.toNat) ∧
    flag .v q = (if ps.cmpWritesV then decide (reg.toInt - m.toInt < -128 ∨ 127 < reg.toInt - m.toInt) else flag .v p) ∧
    ∀ f : Flag, f ≠ .n → f ≠ .v → f ≠ .z → f ≠ .c → flag f q = flag f p

/-- The state after a branch (45_branch_jump.md R132): not taken 2 cycles; taken to PC plus the signed offset modulo 2^16,
3 cycles within the page of PC, 4 to another page. -/
def afterBranch (cond : Bool) (off : Byte) (s : State) : State :=
  let target : Word := BitVec.ofInt 16 (s.pc.toNat + off.toInt)
  if cond then { s with pc := target, cycles := if target.toNat / 256 = s.pc.toNat / 256 then 3 else 4 }
  else { s with cycles := 2 }

/-- The RAM after pushing the bytes of a list, the first at index `0x0100 | sp` (46_stack_flag_system.md R144). -/
def ramPushed : Memory → Byte → List Byte → Memory
  | m, _, [] => m
  | m, sp, b :: bs => ramPushed (memWrite m (0x100 + sp.toNat) b) (sp - 1) bs

/-- `c` is the copy of `p` with U and B set, as PHP and BRK push it (R147, R149). -/
def ProgramCopy (p c : Byte) : Prop :=
  flag .u c = true ∧ flag .b c = true ∧ ∀ f : Flag, f ≠ .u → f ≠ .b → flag f c = flag f p

/-- `c` is the copy of `p` with B cleared, U and I set, as IRQ and NMI push it (60_exceptions.md R188). -/
def InterruptCopy (p c : Byte) : Prop :=
  flag .b c = false ∧ flag .u c = true ∧ flag .i c = true ∧
    ∀ f : Flag, f ≠ .u → f ≠ .b → f ≠ .i → flag f c = flag f p

/-- `q` is the pulled byte `b` with B and U cleared (R148, R150). -/
def PulledFrom (b q : Byte) : Prop :=
  flag .u q = false ∧ flag .b q = false ∧ ∀ f : Flag, f ≠ .u → f ≠ .b → flag f q = flag f b

/-! ## The picture, pixel by pixel, with no function of the renderer -/

/-- The colour index of pixel (x, y) of a tile whose bytes the mapper serves (51_ppu_rendering.md R176). -/
def tileValue (m : Mapper) (base : Nat) (t : Byte) (x y : Nat) : Nat :=
  2 * ((memRead m.chr (base + t.toNat * 16 + y + 8)).getLsbD (7 - x)).toNat +
    ((memRead m.chr (base + t.toNat * 16 + y)).getLsbD (7 - x)).toNat

/-- The system colour of a palette byte, its low six bits (R178). -/
def systemColour (e : Byte) : Rgb := Config.sysPalette (BitVec.ofNat 6 e.toNat)

/-- The background palette of the tile at pixel (px, py) (R175): of the attribute byte of its 32 × 32 pixel block, the bits
1:0, 3:2, 5:4 or 7:6 for the top left, top right, bottom left or bottom right quadrant of 16 × 16 pixels. -/
def attributeAt (s : State) (px py : Nat) : Nat :=
  (memRead s.ppu.vram (0x3C0 + py / 32 * 8 + px / 32)).toNat / 4 ^ (2 * (py / 16 % 2) + px / 16 % 2) % 4

/-- The background's colour at pixel (px, py) (R174, R177): index 0 of every palette is the shared entry 0. -/
def bgPixelAt (s : State) (px py : Nat) : Rgb :=
  let base := if s.ppu.ctrl.getLsbD 4 then 0x1000 else 0x0000
  let v := tileValue s.mapper base (memRead s.ppu.vram (py / 8 * 32 + px / 8)) (px % 8) (py % 8)
  systemColour (memRead s.ppu.palette (if v = 0 then 0x00 else 4 * attributeAt s px py + v))

/-- The colour sprite `n` puts at pixel (px, py), if it covers the pixel and is not transparent there (R179): attribute bit
6 mirrors the tile's columns and bit 7 its rows (R180), bits 1:0 choose the palette from 0x10 on (R181). -/
def spritePixelAt (s : State) (n px py : Nat) : Option Rgb :=
  let sy := (memRead s.ppu.oam (4 * n)).toNat
  let attr := (memRead s.ppu.oam (4 * n + 2)).toNat
  let sx := (memRead s.ppu.oam (4 * n + 3)).toNat
  if sx ≤ px ∧ px < sx + 8 ∧ sy ≤ py ∧ py < sy + 8 then
    let base := if s.ppu.ctrl.getLsbD 3 then 0x1000 else 0x0000
    let x := if attr / 0x40 % 2 = 1 then 7 - (px - sx) else px - sx
    let y := if attr / 0x80 = 1 then 7 - (py - sy) else py - sy
    let v := tileValue s.mapper base (memRead s.ppu.oam (4 * n + 1)) x y
    if v = 0 then none else some (systemColour (memRead s.ppu.palette (0x10 + 4 * (attr % 4) + v)))
  else none

/-- The colour of pixel (px, py) of the picture: the first sprite in OAM order that is opaque there, else the
background. -/
def pixelAt (s : State) (px py : Nat) : Rgb :=
  match (List.range 64).findSome? fun n => spritePixelAt s n px py with
  | some c => c
  | none => bgPixelAt s px py

end Sys2Proof.Machine
end

