-- ==== Sys2Proof/Certificates/Slice0/Obligations.lean ====
section
/-! DEFINITION. The statements about the machine, one def per obligation; OBLIGATIONS.json lists them. -/

open Sys2Proof Sys2Proof.Machine

/-- For every well-formed instruction i, with every operand at every value, and any bytes after it, decode (encode i
++ rest) is i and leaves rest. (R61, R67, R68, R69.) -/
def Obligations.DecodeOfEncodeIsTheInstruction : Prop :=
  ∀ (i : Instr) (rest : List Byte), wellFormed i = true → decode (encode i ++ rest) = .ok i rest

/-- If decode bytes gives i and leaves rest, then i is well formed and encode i ++ rest is bytes: one byte sequence
per instruction, no bit dropped. (R61, R64, R67, R68.) -/
def Obligations.DecodedBytesAreTheEncoding : Prop :=
  ∀ (bytes : List Byte) (i : Instr) (rest : List Byte), decode bytes = .ok i rest →
    wellFormed i = true ∧ encode i ++ rest = bytes

/-- For every opcode byte followed by at least two bytes the decoder gives a well-formed instruction; it is the
unknown-opcode instruction exactly for the 105 opcodes of R68, and those are exactly the opcodes with no row in the
dispatch table. (R69.) -/
def Obligations.DecodingIsTotal : Prop :=
  ∀ (op b₁ b₂ : Byte) (rest : List Byte), ∃ i tail,
    decode (op :: b₁ :: b₂ :: rest) = .ok i tail ∧ wellFormed i = true ∧
      (op ∈ unknownOpcodes ↔ i = .unknown op) ∧ (op ∈ unknownOpcodes ↔ lookupRow op = none)

/-- LDA #$10 is A9 10; STA $0200 is 8D 00 02; ADC ($20),Y is 71 20; ROL $12,X is 36 12; BNE -5 is D0 FB; JMP ($02FF)
is 6C FF 02; JSR $9000 is 20 00 90; BRK is 00; 0x02 is unknown and one byte long. (R61, R63, R67, R68.) -/
def Obligations.SampleWordsDecode : Prop :=
  decode [0xA9, 0x10] = .ok (.lda (.imm 0x10)) [] ∧
    decode [0x8D, 0x00, 0x02] = .ok (.sta (.abs 0x0200)) [] ∧
    decode [0x71, 0x20] = .ok (.adc (.izy 0x20)) [] ∧
    decode [0x36, 0x12] = .ok (.rol (.zpx 0x12)) [] ∧
    decode [0xD0, 0xFB] = .ok (.bne 0xFB) [] ∧
    decode [0x6C, 0xFF, 0x02] = .ok (.jmp (.ind 0x02FF)) [] ∧
    decode [0x20, 0x00, 0x90] = .ok (.jsr 0x9000) [] ∧
    decode [0x00, 0x77] = .ok .brk [0x77] ∧
    decode [0x02, 0xA9] = .ok (.unknown 0x02) [0xA9]

/-- After reset, where the bytes from PC on (u16 wrap), outside the PPU window, are those of a well-formed instruction
i, step is exec of i at the state whose PC is moved past the instruction (log entry 13 splits a step so), and nothing
else is changed before. (R72, R74, R59.) -/
def Obligations.StepRunsTheDecodedInstruction : Prop :=
  ∀ (i : Instr) (s : State), wellFormed i = true → s.cpuSet = true →
    (∀ (k : Nat) (b : Byte), (encode i)[k]? = some b → peek (s.pc + BitVec.ofNat 16 k) s = some b) →
    step s = exec i { s with pc := s.pc + BitVec.ofNat 16 (encode i).length }

/-- Where the CPU registers hold no value, step and nmi fault on PC and irq on P, whatever else the state is (log
entry 9: one Boolean says that they hold no value). (R184, R193, R200.) -/
def Obligations.ActionsBeforeResetFault : Prop :=
  ∀ s : State, s.cpuSet = false →
    step s = .fault (.unset .pc) ∧ irqAction s = .fault (.unset .p) ∧ nmiAction s = .fault (.unset .pc)

/-- If Inv holds of s and step s is a next state t, Inv holds of t: every memory canonical and of its size, ppu.vaddr
at most 0x3FFF, P.B and P.U 0. (R25, R28, R30, R56.) -/
def Obligations.StepKeepsTheInvariant : Prop :=
  ∀ s t : State, Inv s → step s = .next t → Inv t

/-- Inv holds of State.reset (its memory and cartridge contents are the choices of log entries 1 and 2). (R35, R199.)
-/
def Obligations.ResetStateHasTheInvariant : Prop :=
  Inv State.reset

/-- For every list of host actions (reset, step, IRQ, NMI, render, set_status), if Inv holds of s and the run from s
ends in t without a Fault, Inv holds of t. (R193, R25, R30, R199.) -/
def Obligations.HostRunsKeepTheInvariant : Prop :=
  ∀ (hs : List HostAction) (s t : State) (rs : List Reply), Inv s → performAll hs s = .next (t, rs) → Inv t

/-- exec of a well-formed instruction is never a refusal, and step is never a refusal. (R69, R78.) -/
def Obligations.NoDecodedInstructionIsRefused : Prop :=
  (∀ (i : Instr) (s : State) (e : Refusal), wellFormed i = true → exec i s ≠ .refused e) ∧
    ∀ (s : State) (e : Refusal), step s ≠ .refused e

/-- If a step after reset faults (ppu.vaddr at most 0x3FFF), the fault is MapperOffset of an offset the mapper
rejects, or PpuUnrouted of an address in 0x3000–0x3EFF or 0x3F20–0x3FFF under PPU_UNROUTED = fault, or
PpuUndefinedPort of a read of register 0, 1, 3, 5, 6 or a write of register 2 under PPU_UNDEFINED_PORT = fault. (R78,
R171, R184.) -/
def Obligations.StepsFaultOnlyOnFatalAccesses : Prop :=
  ∀ (s : State) (e : Fault), s.cpuSet = true → s.ppu.vaddr.toNat ≤ 0x3FFF → step s = .fault e →
    (∃ off, e = .mapperOffset off ∧ (prgAt s.mapper off = none ∨ chrAt s.mapper off = none)) ∨
    (∃ a : Word, e = .ppuUnrouted a ∧ s.params.unrouted = .fault ∧
      (0x3000 ≤ a.toNat ∧ a.toNat < 0x3F00 ∨ 0x3F20 ≤ a.toNat ∧ a.toNat ≤ 0x3FFF)) ∨
    ∃ r dir, e = .ppuUndefinedPort r dir ∧ s.params.undefinedPort = .fault ∧
      (dir = .read ∧ r ∈ [PpuReg.ctrl, .mask, .oamAddr, .scroll, .addr] ∨ dir = .write ∧ r = .status)

/-- If a host action goes on from s to t, the mapper and the parameters are unchanged, and ppu.status is unchanged
unless the action is set_status. set_status(v) completes in every state with ppu.status v and nothing else changed,
and gives nothing back; render gives the frame back and leaves the whole state as it was, or ends in the fault of the
rendering. (R9, R29, R33, R42, R53, R172, R193.) -/
def Obligations.CartridgeFixedAndStatusOnlyHostWritten : Prop :=
  (∀ (h : HostAction) (s t : State) (r : Reply), h.perform s = .next (t, r) →
      t.mapper = s.mapper ∧ t.params = s.params ∧ ((∀ v, h ≠ .setStatus v) → t.ppu.status = s.ppu.status)) ∧
    (∀ (v : Byte) (s : State), (HostAction.setStatus v).perform s =
      .next ({ s with ppu := { s.ppu with status := v } }, .nothing)) ∧
    ∀ s : State, HostAction.render.perform s = andThen (render s) fun f => .next (s, .frame f)

/-- If exec i goes on from s to t, every flag not listed for i in the flag table of R26 (writtenFlags; V in compares
only when CMP_WRITES_V) is unchanged in P. (R25, R26.) -/
def Obligations.FlagsOutsideTheTableAreUnchanged : Prop :=
  ∀ (i : Instr) (s t : State), exec i s = .next t →
    ∀ f : Flag, f ∉ writtenFlags s.params i → flag f t.p = flag f s.p

/-- If exec i goes on from s to t, each of A, X, Y, SP that writtenRegs does not list for i is unchanged (stores,
compares, branches, flag instructions, NOP and unknown opcodes change none of them); PC, already past the instruction,
is unchanged unless i is a branch, jump, call, return, BRK or RTI; the CPU-set bit is unchanged. (R15, R16, R74, R98,
R112, R124, R128, R144.) -/
def Obligations.RegistersOutsideTheRuleAreUnchanged : Prop :=
  ∀ (i : Instr) (s t : State), exec i s = .next t →
    (.a ∉ writtenRegs i → t.a = s.a) ∧ (.x ∉ writtenRegs i → t.x = s.x) ∧
      (.y ∉ writtenRegs i → t.y = s.y) ∧ (.sp ∉ writtenRegs i → t.sp = s.sp) ∧
      (transfersControl i = false → t.pc = s.pc) ∧ t.cpuSet = s.cpuSet

/-- With RAM in canonical form, if exec i goes on from s to t, every RAM index that is neither where the resolved
operand of a store or read-modify-write instruction leads nor a stack byte PHA, PHP, JSR or BRK pushes reads as
before. (R37, R97, R144.) -/
def Obligations.RamOutsideTheStoreIsUnchanged : Prop :=
  ∀ (i : Instr) (s t : State) (k : Nat), Memory.wf 0x800 s.ram = true → exec i s = .next t →
    (∀ ea, storeAddress i s = some ea → busTarget ea ≠ .ram k) → k ∉ stackStores i s →
    memRead t.ram k = memRead s.ram k

/-- If exec i goes on from s to t and the address i stores to does not lead to a PPU register, every byte of VRAM,
palette and OAM reads as before and Control, Mask, Status, OAM address, the scroll bytes and the scroll latch are
unchanged: loads (of 0x2002 or 0x2007) can change the VRAM address, the address latch and the read buffer, of which
nothing is said here. (R14, R43, R97.) -/
def Obligations.PpuStorageChangesOnlyByStores : Prop :=
  ∀ (i : Instr) (s t : State), exec i s = .next t →
    (∀ ea r, storeAddress i s = some ea → busTarget ea ≠ .ppu r) →
    (∀ k, memRead t.ppu.vram k = memRead s.ppu.vram k) ∧ (∀ k, memRead t.ppu.palette k = memRead s.ppu.palette k) ∧
      (∀ k, memRead t.ppu.oam k = memRead s.ppu.oam k) ∧
      t.ppu.ctrl = s.ppu.ctrl ∧ t.ppu.mask = s.ppu.mask ∧ t.ppu.status = s.ppu.status ∧
      t.ppu.oamAddr = s.ppu.oamAddr ∧ t.ppu.scrollX = s.ppu.scrollX ∧ t.ppu.scrollY = s.ppu.scrollY ∧
      t.ppu.scrollSecond = s.ppu.scrollSecond

/-- For an address b below 0x800 and any two of its four mirrors, a Bus write at one goes on, and a Bus read at the
other then gives the written byte and changes nothing; a read at an address of RAM that is no mirror of b is
unchanged. (R38.) -/
def Obligations.RamIsMirroredFourTimes : Prop :=
  ∀ (b : Word) (j k : Nat) (v : Byte) (s : State), b.toNat < 0x800 → j < 4 → k < 4 →
    Memory.wf 0x800 s.ram = true →
    ∃ t, busWrite (b + BitVec.ofNat 16 (0x800 * j)) v s = .next t ∧
      busRead (b + BitVec.ofNat 16 (0x800 * k)) t = .next (v, t) ∧
      ∀ c : Word, c.toNat < 0x2000 → c.toNat % 0x800 ≠ b.toNat → peek c t = peek c s

/-- For every address in 0x4000–0x7FFF a Bus read gives 0x00 with no effect and a Bus write leaves the state as it is.
(R41.) -/
def Obligations.UnmappedRangeReadsZero : Prop :=
  ∀ (a : Word) (v : Byte) (s : State), 0x4000 ≤ a.toNat → a.toNat ≤ 0x7FFF →
    busRead a s = .next (0x00, s) ∧ busWrite a v s = .next s

/-- For every address from 0x8000 on a Bus read gives read_prg(a − 0x8000) with no effect, or faults with that offset
where the mapper rejects it, and a Bus write leaves the state as it is. (R40, R42, R53.) -/
def Obligations.PrgWindowIsReadOnly : Prop :=
  ∀ (a : Word) (v : Byte) (s : State), 0x8000 ≤ a.toNat →
    busWrite a v s = .next s ∧
      (∀ b, prgAt s.mapper (a.toNat - 0x8000) = some b → busRead a s = .next (b, s)) ∧
      (prgAt s.mapper (a.toNat - 0x8000) = none → busRead a s = .fault (.mapperOffset (a.toNat - 0x8000)))

/-- For every address in 0x2000–0x3FFF a Bus read and a Bus write do what they do at 0x2000 + (a − 0x2000) mod 8, and
that address leads to the register of that index. (R39.) -/
def Obligations.PpuWindowRepeatsEveryEightBytes : Prop :=
  ∀ (a : Word) (v : Byte) (s : State), 0x2000 ≤ a.toNat → a.toNat < 0x4000 →
    busTarget a = .ppu (ppuRegOf ((a.toNat - 0x2000) % 8)) ∧
      busRead a s = busRead (BitVec.ofNat 16 (0x2000 + (a.toNat - 0x2000) % 8)) s ∧
      busWrite a v s = busWrite (BitVec.ofNat 16 (0x2000 + (a.toNat - 0x2000) % 8)) v s

/-- If a Bus read at a goes on from s to t: outside 0x2000–0x3FFF t is s; anywhere, t is s but for ppu.vaddr,
ppu.addr_hi_next, ppu.read_buf and the model's count of draws. (R43, R162, R169.) -/
def Obligations.BusReadsChangeOnlyPpuLatches : Prop :=
  ∀ (a : Word) (v : Byte) (s t : State), busRead a s = .next (v, t) →
    (a.toNat < 0x2000 ∨ 0x4000 ≤ a.toNat → t = s) ∧
      t = { s with
        ppu := { s.ppu with vaddr := t.ppu.vaddr, addrHiNext := t.ppu.addrHiNext, readBuf := t.ppu.readBuf }
        draws := t.draws }

/-- push v is the Bus write of v at 0x0100 | SP followed by SP − 1 modulo 256; pull is SP + 1 modulo 256 and the Bus
read at 0x0100 | SP; a pull after a push gives the pushed byte and the old SP. (R144.) -/
def Obligations.StackDisciplinePushesDown : Prop :=
  ∀ (v : Byte) (s : State), Memory.wf 0x800 s.ram = true →
    busWrite (0x0100 ||| zext16 s.sp) v s = .next { push v s with sp := s.sp } ∧
      (push v s).sp.toNat = (s.sp.toNat + 255) % 256 ∧
      pulled s = { s with sp := s.sp + 1 } ∧
      busRead (0x0100 ||| zext16 (s.sp + 1)) (pulled s) = .next (pullByte s, pulled s) ∧
      pullByte (push v s) = v ∧ pulled (push v s) = { push v s with sp := s.sp } ∧
      ∀ k, k ≠ 0x100 + s.sp.toNat → memRead (push v s).ram k = memRead s.ram k

/-- A Bus read at any address of register 2 gives ppu.status, sets ppu.addr_hi_next and changes nothing else: no
status bit, not the scroll latch. (R162.) -/
def Obligations.StatusReadResetsTheAddressLatch : Prop :=
  ∀ (a : Word) (s : State), PortAddress 2 a →
    busRead a s = .next (s.ppu.status, { s with ppu := { s.ppu with addrHiNext := true } })

/-- A Bus write of v at an address of register 0, 1 or 3 sets ppu.ctrl, ppu.mask or ppu.oam_addr to v and changes
nothing else; no NMI is raised. (R160, R161, R163.) -/
def Obligations.ControlMaskAndOamAddressStoreTheByte : Prop :=
  ∀ (a : Word) (v : Byte) (s : State),
    (PortAddress 0 a → busWrite a v s = .next { s with ppu := { s.ppu with ctrl := v } }) ∧
      (PortAddress 1 a → busWrite a v s = .next { s with ppu := { s.ppu with mask := v } }) ∧
      (PortAddress 3 a → busWrite a v s = .next { s with ppu := { s.ppu with oamAddr := v } })

/-- With OAM in canonical form, a Bus write of v at an address of register 4 makes the OAM byte at oam_addr v, leaves
every other OAM byte, advances oam_addr by 1 modulo 256 and changes nothing else; a Bus read there gives the OAM byte
at oam_addr and changes nothing. (R164, R165.) -/
def Obligations.OamDataWriteStoresAndAdvances : Prop :=
  ∀ (a : Word) (v : Byte) (s : State), PortAddress 4 a → Memory.wf 0x100 s.ppu.oam = true →
    busRead a s = .next (memRead s.ppu.oam s.ppu.oamAddr.toNat, s) ∧
      ∃ oam next, busWrite a v s = .next { s with ppu := { s.ppu with oam := oam, oamAddr := next } } ∧
        next.toNat = (s.ppu.oamAddr.toNat + 1) % 256 ∧ memRead oam s.ppu.oamAddr.toNat = v ∧
        ∀ k, k ≠ s.ppu.oamAddr.toNat → memRead oam k = memRead s.ppu.oam k

/-- A Bus write at an address of register 5 sets scroll_x when scroll_second is false and scroll_y when it is true,
toggles scroll_second and changes nothing else; a PPUADDR write does not toggle it and a PPUSTATUS read does not reset
it. (R166.) -/
def Obligations.ScrollWritesAlternate : Prop :=
  ∀ (a : Word) (v : Byte) (s : State),
    (PortAddress 5 a → s.ppu.scrollSecond = false →
      busWrite a v s = .next { s with ppu := { s.ppu with scrollX := v, scrollSecond := true } }) ∧
    (PortAddress 5 a → s.ppu.scrollSecond = true →
      busWrite a v s = .next { s with ppu := { s.ppu with scrollY := v, scrollSecond := false } }) ∧
    (PortAddress 6 a → ∀ t, busWrite a v s = .next t → t.ppu.scrollSecond = s.ppu.scrollSecond) ∧
    (PortAddress 2 a → ∀ t, busRead a s = .next (v, t) → t.ppu.scrollSecond = s.ppu.scrollSecond)

/-- With vaddr at most 0x3FFF, a Bus write of v at an address of register 6 makes vaddr (v & 0x3F : low byte kept)
when addr_hi_next is true and (high byte kept : v) when it is false, toggles addr_hi_next and changes nothing else.
(R167.) -/
def Obligations.AddressWritesFillTheHalvesInTurn : Prop :=
  ∀ (a : Word) (v : Byte) (s : State), PortAddress 6 a → s.ppu.vaddr.toNat ≤ 0x3FFF →
    ∃ w : Word, busWrite a v s =
        .next { s with ppu := { s.ppu with vaddr := w, addrHiNext := !s.ppu.addrHiNext } } ∧
      (s.ppu.addrHiNext = true → w.toNat = v.toNat % 0x40 * 256 + s.ppu.vaddr.toNat % 256) ∧
      (s.ppu.addrHiNext = false → w.toNat = s.ppu.vaddr.toNat / 256 * 256 + v.toNat)

/-- For an address of at most 0x3FFF and an increment of 1 or 32, the byte-wise advance of R168 is the address plus
the increment modulo 0x4000; the increment is 32 if bit 2 of Control is set, else 1; advancing leaves addr_hi_next.
(R31, R168.) -/
def Obligations.VramAddressAdvancesModulo14Bits : Prop :=
  ∀ (v : Word) (n : Nat) (u : Ppu), v.toNat ≤ 0x3FFF → n = 1 ∨ n = 32 →
    (advanceVaddr n v).toNat = (v.toNat + n) % 0x4000 ∧
      vramIncrement u.ctrl = (if u.ctrl.getLsbD 2 then 32 else 1) ∧
      u.advance = { u with vaddr := advanceVaddr (vramIncrement u.ctrl) u.vaddr }

/-- A Bus read at an address of register 7: at a CHR or nametable address it gives read_buf, refills it from CHR (or
faults with the offset) or from VRAM, and advances vaddr; at a palette address it gives the palette byte, leaves the
buffer and advances; at an unrouted address it faults or, under hw_mirror, acts at the mirrored target. (R169.) -/
def Obligations.DataReadIsOneReadBehind : Prop :=
  ∀ (a : Word) (s : State), PortAddress 7 a →
    let u := s.ppu
    let n := u.vaddr.toNat
    let next := advanceVaddr (vramIncrement u.ctrl) u.vaddr
    (n < 0x2000 → ∀ b, chrAt s.mapper n = some b →
      busRead a s = .next (u.readBuf, { s with ppu := { u with vaddr := next, readBuf := b } })) ∧
    (n < 0x2000 → chrAt s.mapper n = none → busRead a s = .fault (.mapperOffset n)) ∧
    (0x2000 ≤ n → n < 0x3000 ∨ n < 0x3F00 ∧ s.params.unrouted = .hwMirror →
      busRead a s = .next (u.readBuf, { s with ppu :=
        { u with vaddr := next, readBuf := memRead u.vram (ntIndex s.mapper.mirror u.vaddr) } })) ∧
    (0x3F00 ≤ n → n < 0x3F20 →
      busRead a s = .next (memRead u.palette (palIndex u.vaddr), { s with ppu := { u with vaddr := next } })) ∧
    (0x3F20 ≤ n → n < 0x4000 → s.params.unrouted = .hwMirror →
      busRead a s = .next (memRead u.palette (palIndex (BitVec.ofNat 16 (0x3F00 + n % 0x20))),
        { s with ppu := { u with vaddr := next } })) ∧
    (0x3000 ≤ n ∧ n < 0x3F00 ∨ 0x3F20 ≤ n ∧ n < 0x4000 → s.params.unrouted = .fault →
      busRead a s = .fault (.ppuUnrouted u.vaddr))

/-- A Bus write of v at an address of register 7: at a CHR address nothing is stored; at a nametable address the VRAM
byte, at a palette address the palette byte becomes v; vaddr advances and read_buf is untouched; at an unrouted
address it faults or, under hw_mirror, acts at the mirrored target. (R170.) -/
def Obligations.DataWriteStoresAndAdvances : Prop :=
  ∀ (a : Word) (v : Byte) (s : State), PortAddress 7 a →
    let u := s.ppu
    let n := u.vaddr.toNat
    let next := advanceVaddr (vramIncrement u.ctrl) u.vaddr
    (n < 0x2000 → busWrite a v s = .next { s with ppu := { u with vaddr := next } }) ∧
    (0x2000 ≤ n → n < 0x3000 ∨ n < 0x3F00 ∧ s.params.unrouted = .hwMirror →
      busWrite a v s = .next { s with ppu :=
        { u with vaddr := next, vram := memWrite u.vram (ntIndex s.mapper.mirror u.vaddr) v } }) ∧
    (0x3F00 ≤ n → n < 0x3F20 →
      busWrite a v s = .next { s with ppu :=
        { u with vaddr := next, palette := memWrite u.palette (palIndex u.vaddr) v } }) ∧
    (0x3F20 ≤ n → n < 0x4000 → s.params.unrouted = .hwMirror →
      busWrite a v s = .next { s with ppu :=
        { u with vaddr := next, palette := memWrite u.palette (palIndex (BitVec.ofNat 16 (0x3F00 + n % 0x20))) v } }) ∧
    (0x3000 ≤ n ∧ n < 0x3F00 ∨ 0x3F20 ≤ n ∧ n < 0x4000 → s.params.unrouted = .fault →
      busWrite a v s = .fault (.ppuUnrouted u.vaddr))

/-- A Bus read of register 0, 1, 3, 5 or 6 and a Bus write of register 2: under PPU_UNDEFINED_PORT = fault they fault
with the register and direction; under hw the read gives a free byte (whatever its value; the model counts the draw,
log entry 5, and changes nothing else) and the write changes nothing. (R171.) -/
def Obligations.UndefinedPortsFollowThePolicy : Prop :=
  ∀ (a : Word) (v : Byte) (k : Nat) (s : State), PortAddress k a →
    (k = 0 ∨ k = 1 ∨ k = 3 ∨ k = 5 ∨ k = 6 →
      (s.params.undefinedPort = .fault → busRead a s = .fault (.ppuUndefinedPort (ppuRegOf k) .read)) ∧
      (s.params.undefinedPort = .hw →
        busRead a s = .next (Config.drawByte s.draws, { s with draws := s.draws + 1 }))) ∧
    (k = 2 →
      (s.params.undefinedPort = .fault → busWrite a v s = .fault (.ppuUndefinedPort .status .write)) ∧
      (s.params.undefinedPort = .hw → busWrite a v s = .next s))

/-- For 0x2000–0x2FFF, and for 0x3000–0x3EFF (which hw_mirror folds onto 0x2000–0x2EFF): vertical mirroring keeps the
offset modulo 0x800; horizontal mirroring keeps the offset in the nametable and sends nametables 0 and 1 to the first
half, 2 and 3 to the second; the index is below 0x800. For 0x3F00–0x3F1F the palette index is the offset, less 0x10
for 0x10, 0x14, 0x18 and 0x1C. (R8, R49, R50, R51.) -/
def Obligations.NametablesAndPaletteAreMirrored : Prop :=
  ∀ a : Word,
    (0x2000 ≤ a.toNat → a.toNat < 0x3F00 →
      ntIndex .vertical a = a.toNat % 0x800 ∧
        ntIndex .horizontal a = (a.toNat - 0x2000) % 0x1000 / 0x800 * 0x400 + a.toNat % 0x400 ∧
        ntIndex .vertical a < 0x800 ∧ ntIndex .horizontal a < 0x800) ∧
    (0x3F00 ≤ a.toNat → a.toNat < 0x3F20 →
      palIndex a = (if a.toNat % 0x20 ≥ 0x10 ∧ a.toNat % 4 = 0 then a.toNat % 0x20 - 0x10 else a.toNat % 0x20))

/-- With VRAM in canonical form, the address latch at the high byte and (hi : lo) a nametable address: writing hi, lo
to 0x2006, v to 0x2007, hi, lo to 0x2006 and reading 0x2007 goes on. A second read then gives v where the advanced
VRAM address is below 0x3000 or PPU_UNROUTED is hw_mirror; otherwise (as at 0x2FFF with increment 1) it faults with
PpuUnrouted of that address. (R51, R167, R169, R170, R204.) -/
def Obligations.VramWrittenThroughThePortsReadsBack : Prop :=
  ∀ (hi lo v : Byte) (s : State), Memory.wf 0x800 s.ppu.vram = true → s.ppu.addrHiNext = true →
    0x2000 ≤ (joinBytes hi lo).toNat → (joinBytes hi lo).toNat < 0x3000 →
    ∃ s₁ s₂ s₃ s₄ s₅ s₆ old, busWrite 0x2006 hi s = .next s₁ ∧ busWrite 0x2006 lo s₁ = .next s₂ ∧
      busWrite 0x2007 v s₂ = .next s₃ ∧ busWrite 0x2006 hi s₃ = .next s₄ ∧ busWrite 0x2006 lo s₄ = .next s₅ ∧
      busRead 0x2007 s₅ = .next (old, s₆) ∧
      s₆.ppu.vaddr.toNat = (joinBytes hi lo).toNat + (if s.ppu.ctrl.getLsbD 2 then 32 else 1) ∧
      (s₆.ppu.vaddr.toNat < 0x3000 ∨ s.params.unrouted = .hwMirror → ∃ s₇, busRead 0x2007 s₆ = .next (v, s₇)) ∧
      (0x3000 ≤ s₆.ppu.vaddr.toNat → s.params.unrouted = .fault →
        busRead 0x2007 s₆ = .fault (.ppuUnrouted s₆.ppu.vaddr))

/-- ZP0, ZPX, ZPY wrap within page 0; ABS is the word; ABX and ABY add the index modulo 2^16 and cross when the page
changes; the IZX pointer b + X and the IZY pointer b wrap within page 0, low byte first; IZY adds Y to the word and
crosses when the page changes; ACC and IMM are register A and the byte. Load gives A, the immediate byte or what one
Bus read of the address gives; Store sets A or is one Bus write at the address. (R81, R82, R83, R84, R85, R86, R88,
R89, R91, R92, R94, R95.) -/
def Obligations.AddressingModesComputeTheOperand : Prop :=
  ∀ (b : Byte) (w : Word) (s : State) (v : Byte),
    let pointer := fun p : Nat =>
      (memRead s.ram ((p + 1) % 256)).toNat * 256 + (memRead s.ram (p % 256)).toNat
    let plain := fun ea : Nat => Resolved.mk (.addr (BitVec.ofNat 16 ea)) false
    let added := fun base index : Nat =>
      Resolved.mk (.addr (BitVec.ofNat 16 (base + index))) (decide (base / 256 ≠ (base + index) % 65536 / 256))
    resolve .acc s = .mk .acc false ∧ resolve (.imm b) s = .mk (.imm b) false ∧
      resolve (.zp0 b) s = plain b.toNat ∧
      resolve (.zpx b) s = plain ((b.toNat + s.x.toNat) % 256) ∧
      resolve (.zpy b) s = plain ((b.toNat + s.y.toNat) % 256) ∧
      resolve (.abs w) s = plain w.toNat ∧
      resolve (.abx w) s = added w.toNat s.x.toNat ∧
      resolve (.aby w) s = added w.toNat s.y.toNat ∧
      resolve (.izx b) s = plain (pointer (b.toNat + s.x.toNat)) ∧
      resolve (.izy b) s = added (pointer b.toNat) s.y.toNat ∧
      load .acc s = .next (s.a, s) ∧ load (.imm b) s = .next (b, s) ∧ load (.addr w) s = busRead w s ∧
      store .acc v s = .next { s with a := v } ∧ store (.addr w) v s = busWrite w v s

/-- Where the operand can be read, each row of LDA, LDX, LDY has the opcode of its rule and goes on from the state t
after the load (the immediate byte, t then being s, or one Bus read of the address), with the loaded byte in A, X or
Y, N and Z set from it, every other flag and everything else as in t, at base plus page penalty cycles. (R98, R99,
R100.) -/
def Obligations.LoadsLoadTheOperand : Prop :=
  ∀ (m : Operand) (op : Byte) (s : State), operandReadOk m s = true →
    ∃ v t q, Loaded (resolve m s).opnd s v t ∧ NZFrom v s.p q ∧
      ((m.mode, op) ∈ [(Mode.imm, 0xA9), (.zp0, 0xA5), (.zpx, 0xB5), (.abs, 0xAD), (.abx, 0xBD), (.aby, 0xB9),
          (.izx, 0xA1), (.izy, (0xB1 : Byte))] →
        opcodeOf (.lda m) = some op ∧ exec (.lda m) s = .next { t with a := v, p := q, cycles := cost (.lda m) m s }) ∧
      ((m.mode, op) ∈ [(Mode.imm, 0xA2), (.zp0, 0xA6), (.zpy, 0xB6), (.abs, 0xAE), (.aby, (0xBE : Byte))] →
        opcodeOf (.ldx m) = some op ∧ exec (.ldx m) s = .next { t with x := v, p := q, cycles := cost (.ldx m) m s }) ∧
      ((m.mode, op) ∈ [(Mode.imm, 0xA0), (.zp0, 0xA4), (.zpx, 0xB4), (.abs, 0xAC), (.abx, (0xBC : Byte))] →
        opcodeOf (.ldy m) = some op ∧ exec (.ldy m) s = .next { t with y := v, p := q, cycles := cost (.ldy m) m s })

/-- Where the resolved operand is an address ea that can be written, each row of STA, STX, STY has the opcode of its
rule and goes on to the state after the one Bus write of A, X or Y at ea, with no read of ea and nothing else changed
but the cycles, base plus page penalty. (R101, R102, R103.) -/
def Obligations.StoresWriteTheRegister : Prop :=
  ∀ (m : Operand) (op : Byte) (ea : Word) (s : State), (resolve m s).opnd = .addr ea → writeOk ea s = true →
    ((m.mode, op) ∈ [(Mode.zp0, 0x85), (.zpx, 0x95), (.abs, 0x8D), (.abx, 0x9D), (.aby, 0x99), (.izx, 0x81),
        (.izy, (0x91 : Byte))] →
      opcodeOf (.sta m) = some op ∧
        ∃ t, busWrite ea s.a s = .next t ∧ exec (.sta m) s = .next { t with cycles := cost (.sta m) m s }) ∧
    ((m.mode, op) ∈ [(Mode.zp0, 0x86), (.zpy, 0x96), (.abs, (0x8E : Byte))] →
      opcodeOf (.stx m) = some op ∧
        ∃ t, busWrite ea s.x s = .next t ∧ exec (.stx m) s = .next { t with cycles := cost (.stx m) m s }) ∧
    ((m.mode, op) ∈ [(Mode.zp0, 0x84), (.zpx, 0x94), (.abs, (0x8C : Byte))] →
      opcodeOf (.sty m) = some op ∧
        ∃ t, busWrite ea s.y s = .next t ∧ exec (.sty m) s = .next { t with cycles := cost (.sty m) m s })

/-- Each transfer has the opcode of its rule and completes in every state in 2 cycles with the copied register, N and
Z set from it (but for TXS, which writes no flag), and nothing else changed. (R104, R105, R106, R107, R108, R109.) -/
def Obligations.TransfersCopyTheRegister : Prop :=
  ∀ s : State, ∃ qa qx qy qs, NZFrom s.a s.p qa ∧ NZFrom s.x s.p qx ∧ NZFrom s.y s.p qy ∧ NZFrom s.sp s.p qs ∧
    exec .tax s = .next { s with x := s.a, p := qa, cycles := 2 } ∧ opcodeOf .tax = some 0xAA ∧
    exec .tay s = .next { s with y := s.a, p := qa, cycles := 2 } ∧ opcodeOf .tay = some 0xA8 ∧
    exec .txa s = .next { s with a := s.x, p := qx, cycles := 2 } ∧ opcodeOf .txa = some 0x8A ∧
    exec .tya s = .next { s with a := s.y, p := qy, cycles := 2 } ∧ opcodeOf .tya = some 0x98 ∧
    exec .tsx s = .next { s with x := s.sp, p := qs, cycles := 2 } ∧ opcodeOf .tsx = some 0xBA ∧
    exec .txs s = .next { s with sp := s.x, cycles := 2 } ∧ opcodeOf .txs = some 0x9A

/-- Where the operand can be read, each row of ADC and SBC has the opcode of its rule and goes on from the state t
after the load with A the byte of A + m + C (m complemented for SBC), N, Z, C, V of that sum by R111, whatever D
holds, and everything else as in t. (R112, R113.) -/
def Obligations.AdcAndSbcAddThroughOnePath : Prop :=
  ∀ (m : Operand) (op : Byte) (s : State), operandReadOk m s = true →
    ∃ v t, Loaded (resolve m s).opnd s v t ∧
      ((m.mode, op) ∈ [(Mode.imm, 0x69), (.zp0, 0x65), (.zpx, 0x75), (.abs, 0x6D), (.abx, 0x7D), (.aby, 0x79),
          (.izx, 0x61), (.izy, (0x71 : Byte))] →
        opcodeOf (.adc m) = some op ∧ ∃ r q, SumFlags s.a v (flag .c s.p) r s.p q ∧
          exec (.adc m) s = .next { t with a := r, p := q, cycles := cost (.adc m) m s }) ∧
      ((m.mode, op) ∈ [(Mode.imm, 0xE9), (.zp0, 0xE5), (.zpx, 0xF5), (.abs, 0xED), (.abx, 0xFD), (.aby, 0xF9),
          (.izx, 0xE1), (.izy, (0xF1 : Byte))] →
        opcodeOf (.sbc m) = some op ∧ ∃ r q, SumFlags s.a (~~~v) (flag .c s.p) r s.p q ∧
          exec (.sbc m) s = .next { t with a := r, p := q, cycles := cost (.sbc m) m s })

/-- AddCore sets V exactly when the signed sum a + m + c is outside −128..127 and C exactly when the unsigned sum is
at least 256; with the complemented operand its byte is a − m − (1 − c) and C means no borrow. (R110, R111, R113.) -/
def Obligations.OverflowIsSignedOverflow : Prop :=
  ∀ (a m : Byte) (c : Bool),
    ((addCore a m c).v = true ↔ a.toInt + m.toInt + c.toNat < -128 ∨ 127 < a.toInt + m.toInt + c.toNat) ∧
      ((addCore a m c).c = true ↔ 256 ≤ a.toNat + m.toNat + c.toNat) ∧
      (addCore a (~~~m) c).r = a - m - (if c then 0 else 1) ∧
      ((addCore a (~~~m) c).c = true ↔ m.toNat + (if c then 0 else 1) ≤ a.toNat) ∧
      ((addCore a (~~~m) c).v = true ↔
        a.toInt - m.toInt - (if c then 0 else 1) < -128 ∨ 127 < a.toInt - m.toInt - (if c then 0 else 1))

/-- Where the operand can be read, each row of CMP, CPX, CPY has the opcode of its rule and goes on from the state t
after the load with C = reg ≥ m unsigned, Z = reg equals m, N = bit 7 of reg − m, V the signed overflow of reg − m
when CMP_WRITES_V and unchanged otherwise, and everything else as in t. (R114, R115, R116, R117.) -/
def Obligations.ComparesSetFlagsOnly : Prop :=
  ∀ (m : Operand) (op : Byte) (s : State), operandReadOk m s = true →
    ∃ v t, Loaded (resolve m s).opnd s v t ∧
      ((m.mode, op) ∈ [(Mode.imm, 0xC9), (.zp0, 0xC5), (.zpx, 0xD5), (.abs, 0xCD), (.abx, 0xDD), (.aby, 0xD9),
          (.izx, 0xC1), (.izy, (0xD1 : Byte))] →
        opcodeOf (.cmp m) = some op ∧ ∃ q, ComparesTo s.params s.a v s.p q ∧
          exec (.cmp m) s = .next { t with p := q, cycles := cost (.cmp m) m s }) ∧
      ((m.mode, op) ∈ [(Mode.imm, 0xE0), (.zp0, 0xE4), (.abs, (0xEC : Byte))] →
        opcodeOf (.cpx m) = some op ∧ ∃ q, ComparesTo s.params s.x v s.p q ∧
          exec (.cpx m) s = .next { t with p := q, cycles := cost (.cpx m) m s }) ∧
      ((m.mode, op) ∈ [(Mode.imm, 0xC0), (.zp0, 0xC4), (.abs, (0xCC : Byte))] →
        opcodeOf (.cpy m) = some op ∧ ∃ q, ComparesTo s.params s.y v s.p q ∧
          exec (.cpy m) s = .next { t with p := q, cycles := cost (.cpy m) m s })

/-- Where the operand can be read, each row of AND, ORA, EOR goes on from the state t after the load with A and, or,
exclusive-or m in A and N, Z of it; BIT goes on with Z of A & m, N and V bits 7 and 6 of m, A unchanged; every other
flag and everything else as in t; opcodes as the rules give. (R118, R119, R120, R121.) -/
def Obligations.LogicCombinesWithA : Prop :=
  ∀ (m : Operand) (op : Byte) (s : State), operandReadOk m s = true →
    ∃ v t qa qo qe qb, Loaded (resolve m s).opnd s v t ∧
      NZFrom (s.a &&& v) s.p qa ∧ NZFrom (s.a ||| v) s.p qo ∧ NZFrom (s.a ^^^ v) s.p qe ∧
      (flag .z qb = decide (s.a &&& v = 0) ∧ flag .n qb = v.getLsbD 7 ∧ flag .v qb = v.getLsbD 6 ∧
        ∀ f : Flag, f ≠ .n → f ≠ .v → f ≠ .z → flag f qb = flag f s.p) ∧
      ((m.mode, op) ∈ [(Mode.imm, 0x29), (.zp0, 0x25), (.zpx, 0x35), (.abs, 0x2D), (.abx, 0x3D), (.aby, 0x39),
          (.izx, 0x21), (.izy, (0x31 : Byte))] →
        opcodeOf (.and m) = some op ∧
          exec (.and m) s = .next { t with a := s.a &&& v, p := qa, cycles := cost (.and m) m s }) ∧
      ((m.mode, op) ∈ [(Mode.imm, 0x09), (.zp0, 0x05), (.zpx, 0x15), (.abs, 0x0D), (.abx, 0x1D), (.aby, 0x19),
          (.izx, 0x01), (.izy, (0x11 : Byte))] →
        opcodeOf (.ora m) = some op ∧
          exec (.ora m) s = .next { t with a := s.a ||| v, p := qo, cycles := cost (.ora m) m s }) ∧
      ((m.mode, op) ∈ [(Mode.imm, 0x49), (.zp0, 0x45), (.zpx, 0x55), (.abs, 0x4D), (.abx, 0x5D), (.aby, 0x59),
          (.izx, 0x41), (.izy, (0x51 : Byte))] →
        opcodeOf (.eor m) = some op ∧
          exec (.eor m) s = .next { t with a := s.a ^^^ v, p := qe, cycles := cost (.eor m) m s }) ∧
      ((m.mode, op) ∈ [(Mode.zp0, 0x24), (.abs, (0x2C : Byte))] →
        opcodeOf (.bit m) = some op ∧ exec (.bit m) s = .next { t with p := qb, cycles := cost (.bit m) m s })

/-- Where the operand can be read and then written, each row of INC and DEC has the opcode of its rule and goes on
through the state t after the Bus read of the address and the state u after the Bus write there of m + 1 or m − 1
(modulo 256), with N, Z of the stored byte, every other flag unchanged and everything else as in u. (R122, R123.) -/
def Obligations.IncAndDecModifyMemory : Prop :=
  ∀ (m : Operand) (op : Byte) (s : State), operandModifyOk m s = true →
    ∃ v t, Loaded (resolve m s).opnd s v t ∧
      ((m.mode, op) ∈ [(Mode.zp0, 0xE6), (.zpx, 0xF6), (.abs, 0xEE), (.abx, (0xFE : Byte))] →
        opcodeOf (.inc m) = some op ∧ ∃ r u q, r.toNat = (v.toNat + 1) % 256 ∧
          Stored (resolve m s).opnd r t u ∧ NZFrom r s.p q ∧
          exec (.inc m) s = .next { u with p := q, cycles := cost (.inc m) m s }) ∧
      ((m.mode, op) ∈ [(Mode.zp0, 0xC6), (.zpx, 0xD6), (.abs, 0xCE), (.abx, (0xDE : Byte))] →
        opcodeOf (.dec m) = some op ∧ ∃ r u q, r.toNat = (v.toNat + 255) % 256 ∧
          Stored (resolve m s).opnd r t u ∧ NZFrom r s.p q ∧
          exec (.dec m) s = .next { u with p := q, cycles := cost (.dec m) m s })

/-- Each has the opcode of its rule and completes in every state in 2 cycles with its index register one more or one
less modulo 256, N and Z of it, every other flag unchanged and nothing else changed. (R124, R125, R126, R127.) -/
def Obligations.IndexIncrementsWrap : Prop :=
  ∀ s : State,
    (∃ r q, r.toNat = (s.x.toNat + 1) % 256 ∧ NZFrom r s.p q ∧ opcodeOf .inx = some 0xE8 ∧
      exec .inx s = .next { s with x := r, p := q, cycles := 2 }) ∧
    (∃ r q, r.toNat = (s.y.toNat + 1) % 256 ∧ NZFrom r s.p q ∧ opcodeOf .iny = some 0xC8 ∧
      exec .iny s = .next { s with y := r, p := q, cycles := 2 }) ∧
    (∃ r q, r.toNat = (s.x.toNat + 255) % 256 ∧ NZFrom r s.p q ∧ opcodeOf .dex = some 0xCA ∧
      exec .dex s = .next { s with x := r, p := q, cycles := 2 }) ∧
    (∃ r q, r.toNat = (s.y.toNat + 255) % 256 ∧ NZFrom r s.p q ∧ opcodeOf .dey = some 0x88 ∧
      exec .dey s = .next { s with y := r, p := q, cycles := 2 })

/-- Where the operand can be read and then written, each row has the opcode of its rule and goes on through the load
(of A, or one Bus read of the address) and the store of the moved byte (ASL 2m, LSR m / 2, ROL 2m + C, ROR 128 C + m /
2, modulo 256) to A, or by one Bus write at the address, with C the bit moved out, N, Z of the moved byte and every
other flag unchanged. (R128, R129, R130, R131.) -/
def Obligations.ShiftsMoveOneBit : Prop :=
  ∀ (m : Operand) (op : Byte) (s : State), operandModifyOk m s = true →
    ∃ v t, Loaded (resolve m s).opnd s v t ∧
      ((m.mode, op) ∈ [(Mode.acc, 0x0A), (.zp0, 0x06), (.zpx, 0x16), (.abs, 0x0E), (.abx, (0x1E : Byte))] →
        opcodeOf (.asl m) = some op ∧ ∃ r u q, r.toNat = v.toNat * 2 % 256 ∧
          Stored (resolve m s).opnd r t u ∧ NZCFrom r (v.getLsbD 7) s.p q ∧
          exec (.asl m) s = .next { u with p := q, cycles := cost (.asl m) m s }) ∧
      ((m.mode, op) ∈ [(Mode.acc, 0x4A), (.zp0, 0x46), (.zpx, 0x56), (.abs, 0x4E), (.abx, (0x5E : Byte))] →
        opcodeOf (.lsr m) = some op ∧ ∃ r u q, r.toNat = v.toNat / 2 ∧
          Stored (resolve m s).opnd r t u ∧ NZCFrom r (v.getLsbD 0) s.p q ∧
          exec (.lsr m) s = .next { u with p := q, cycles := cost (.lsr m) m s }) ∧
      ((m.mode, op) ∈ [(Mode.acc, 0x2A), (.zp0, 0x26), (.zpx, 0x36), (.abs, 0x2E), (.abx, (0x3E : Byte))] →
        opcodeOf (.rol m) = some op ∧ ∃ r u q, r.toNat = (v.toNat * 2 + (flag .c s.p).toNat) % 256 ∧
          Stored (resolve m s).opnd r t u ∧ NZCFrom r (v.getLsbD 7) s.p q ∧
          exec (.rol m) s = .next { u with p := q, cycles := cost (.rol m) m s }) ∧
      ((m.mode, op) ∈ [(Mode.acc, 0x6A), (.zp0, 0x66), (.zpx, 0x76), (.abs, 0x6E), (.abx, (0x7E : Byte))] →
        opcodeOf (.ror m) = some op ∧ ∃ r u q, r.toNat = (flag .c s.p).toNat * 128 + v.toNat / 2 ∧
          Stored (resolve m s).opnd r t u ∧ NZCFrom r (v.getLsbD 0) s.p q ∧
          exec (.ror m) s = .next { u with p := q, cycles := cost (.ror m) m s })

/-- In every state each branch has the opcode of its rule and completes: not taken, PC stays and 2 cycles are
reported; taken, PC is the next address plus the signed offset modulo 2^16, 3 cycles within the page of the next
address, 4 to another page; nothing else changes, no flag is written. (R132, R133, R134, R135, R136, R137, R138, R139,
R140.) -/
def Obligations.BranchesTestTheirFlag : Prop :=
  ∀ (off : Byte) (s : State),
    exec (.bcc off) s = .next (afterBranch (!flag .c s.p) off s) ∧ opcodeOf (.bcc off) = some 0x90 ∧
    exec (.bcs off) s = .next (afterBranch (flag .c s.p) off s) ∧ opcodeOf (.bcs off) = some 0xB0 ∧
    exec (.beq off) s = .next (afterBranch (flag .z s.p) off s) ∧ opcodeOf (.beq off) = some 0xF0 ∧
    exec (.bne off) s = .next (afterBranch (!flag .z s.p) off s) ∧ opcodeOf (.bne off) = some 0xD0 ∧
    exec (.bmi off) s = .next (afterBranch (flag .n s.p) off s) ∧ opcodeOf (.bmi off) = some 0x30 ∧
    exec (.bpl off) s = .next (afterBranch (!flag .n s.p) off s) ∧ opcodeOf (.bpl off) = some 0x10 ∧
    exec (.bvc off) s = .next (afterBranch (!flag .v s.p) off s) ∧ opcodeOf (.bvc off) = some 0x50 ∧
    exec (.bvs off) s = .next (afterBranch (flag .v s.p) off s) ∧ opcodeOf (.bvs off) = some 0x70

/-- JMP absolute completes in every state with PC its word in 3 cycles and no access. JMP indirect completes where its
two pointer bytes can be read, the second at the pointer plus 1 within the pointer's page, after the first: PC is the
word of the two, 5 cycles, and nothing else changes but by the reads. (R141.) -/
def Obligations.JumpsGoToTheTarget : Prop :=
  ∀ (w : Word) (s : State),
    exec (.jmp (.abj w)) s = .next { s with pc := w, cycles := 3 } ∧ opcodeOf (.jmp (.abj w)) = some 0x4C ∧
    opcodeOf (.jmp (.ind w)) = some 0x6C ∧
    let second : Word := BitVec.ofNat 16 (w.toNat / 256 * 256 + (w.toNat + 1) % 256)
    ∀ l t, busRead w s = .next (l, t) → readOk second t = true →
      ∃ h u, busRead second t = .next (h, u) ∧
        exec (.jmp (.ind w)) s = .next { u with pc := BitVec.ofNat 16 (h.toNat * 256 + l.toNat), cycles := 5 }

/-- In every state JSR completes in 6 cycles with the bytes of PC − 1 pushed, high byte first, SP down by 2 and PC the
target; RTS completes in 6 cycles with PC the pulled word plus 1 (low byte first, modulo 2^16) and SP up by 2; nothing
else changes. (R142, R143.) -/
def Obligations.JsrAndRtsUseTheStack : Prop :=
  ∀ (w : Word) (s : State),
    (∃ h l : Byte, h.toNat * 256 + l.toNat = (s.pc.toNat + 65535) % 65536 ∧
      exec (.jsr w) s =
        .next { s with ram := ramPushed s.ram s.sp [h, l], sp := s.sp - 2, pc := w, cycles := 6 }) ∧
    opcodeOf (.jsr w) = some 0x20 ∧ opcodeOf .rts = some 0x60 ∧
    exec .rts s = .next { s with
      sp := s.sp + 2
      pc := BitVec.ofNat 16 ((memRead s.ram (0x100 + (s.sp + 2).toNat)).toNat * 256 +
        (memRead s.ram (0x100 + (s.sp + 1).toNat)).toNat + 1)
      cycles := 6 }

/-- In every state: PHA pushes A (3 cycles); PLA pulls A and sets N, Z from it (4); PHP pushes P with U and B set and
leaves the live P (3); PLP pulls P with U and B cleared (4); SP moves by 1 modulo 256 and nothing else changes;
opcodes as the rules give. (R145, R146, R147, R148.) -/
def Obligations.StackInstructionsPushAndPull : Prop :=
  ∀ s : State,
    (exec .pha s = .next { s with ram := ramPushed s.ram s.sp [s.a], sp := s.sp - 1, cycles := 3 } ∧
      opcodeOf .pha = some 0x48) ∧
    (∃ q, NZFrom (memRead s.ram (0x100 + (s.sp + 1).toNat)) s.p q ∧ opcodeOf .pla = some 0x68 ∧
      exec .pla s = .next { s with
        a := memRead s.ram (0x100 + (s.sp + 1).toNat), sp := s.sp + 1, p := q, cycles := 4 }) ∧
    (∃ c, ProgramCopy s.p c ∧ opcodeOf .php = some 0x08 ∧
      exec .php s = .next { s with ram := ramPushed s.ram s.sp [c], sp := s.sp - 1, cycles := 3 }) ∧
    (∃ q, PulledFrom (memRead s.ram (0x100 + (s.sp + 1).toNat)) q ∧ opcodeOf .plp = some 0x28 ∧
      exec .plp s = .next { s with sp := s.sp + 1, p := q, cycles := 4 })

/-- Where the vector at 0xFFFE/0xFFFF can be read, BRK (opcode 0x00) completes in 7 cycles: the bytes of PC + 1 (PC
being the address of BRK + 1), high byte first, then P with U and B set are pushed, I is set in the live P and no
other bit of it changes, PC is the vector's word, nothing else changes; it is not masked by I. (R149.) -/
def Obligations.BrkTakesTheInterrupt : Prop :=
  ∀ (s : State) (w : Word), wordAt 0xFFFE s = some w →
    ∃ h l c q, h.toNat * 256 + l.toNat = (s.pc.toNat + 1) % 65536 ∧ ProgramCopy s.p c ∧ OneFlag .i true s.p q ∧
      opcodeOf .brk = some 0x00 ∧
      exec .brk s = .next { s with
        ram := ramPushed s.ram s.sp [h, l, c], sp := s.sp - 3, p := q, pc := w, cycles := 7 }

/-- In every state RTI (opcode 0x40) completes in 6 cycles with P the first pulled byte with U and B cleared, PC the
next two pulled bytes, low byte first, SP up by 3 and nothing else changed. (R150.) -/
def Obligations.RtiRestoresStatusAndPc : Prop :=
  ∀ s : State, ∃ q, PulledFrom (memRead s.ram (0x100 + (s.sp + 1).toNat)) q ∧ opcodeOf .rti = some 0x40 ∧
    exec .rti s = .next { s with
      sp := s.sp + 3, p := q
      pc := BitVec.ofNat 16 ((memRead s.ram (0x100 + (s.sp + 3).toNat)).toNat * 256 +
        (memRead s.ram (0x100 + (s.sp + 2).toNat)).toNat)
      cycles := 6 }

/-- In every state each flag instruction completes in 2 cycles with its flag cleared or set and nothing else changed;
NOP completes in 2 cycles and each of the 105 unknown opcodes in ILLEGAL_CYCLES of it (whatever that value), with
nothing else changed; opcodes as the rules give. (R151, R152, R153, R154, R155, R156, R157, R158, R77.) -/
def Obligations.FlagInstructionsAndNops : Prop :=
  ∀ s : State,
    (∃ q, OneFlag .c false s.p q ∧ opcodeOf .clc = some 0x18 ∧ exec .clc s = .next { s with p := q, cycles := 2 }) ∧
    (∃ q, OneFlag .c true s.p q ∧ opcodeOf .sec = some 0x38 ∧ exec .sec s = .next { s with p := q, cycles := 2 }) ∧
    (∃ q, OneFlag .i false s.p q ∧ opcodeOf .cli = some 0x58 ∧ exec .cli s = .next { s with p := q, cycles := 2 }) ∧
    (∃ q, OneFlag .i true s.p q ∧ opcodeOf .sei = some 0x78 ∧ exec .sei s = .next { s with p := q, cycles := 2 }) ∧
    (∃ q, OneFlag .d false s.p q ∧ opcodeOf .cld = some 0xD8 ∧ exec .cld s = .next { s with p := q, cycles := 2 }) ∧
    (∃ q, OneFlag .d true s.p q ∧ opcodeOf .sed = some 0xF8 ∧ exec .sed s = .next { s with p := q, cycles := 2 }) ∧
    (∃ q, OneFlag .v false s.p q ∧ opcodeOf .clv = some 0xB8 ∧ exec .clv s = .next { s with p := q, cycles := 2 }) ∧
    (opcodeOf .nop = some 0xEA ∧ exec .nop s = .next { s with cycles := 2 }) ∧
    ∀ op ∈ unknownOpcodes, opcodeOf (.unknown op) = some op ∧
      exec (.unknown op) s = .next { s with cycles := Config.illegalCycles op }

/-- With RAM in canonical form: JSR then RTS returns to the address after the JSR with the old SP; PHA then, A changed
to anything, PLA restores A and SP with N, Z from A; PHP then, P changed to anything, PLP restores every flag but U
and B, which are 0, and SP. (R142, R143, R145, R146, R147, R148.) -/
def Obligations.CallsAndPushesReturn : Prop :=
  ∀ (s : State) (w : Word) (b : Byte), Memory.wf 0x800 s.ram = true →
    (∃ t u, exec (.jsr w) s = .next t ∧ exec .rts t = .next u ∧ u.pc = s.pc ∧ u.sp = s.sp ∧ u.a = s.a ∧ u.p = s.p) ∧
    (∃ t u, exec .pha s = .next t ∧ exec .pla { t with a := b } = .next u ∧
      u.a = s.a ∧ u.sp = s.sp ∧ NZFrom s.a s.p u.p) ∧
    (∃ t u, exec .php s = .next t ∧ exec .plp { t with p := b } = .next u ∧
      u.sp = s.sp ∧ PulledFrom s.p u.p)

/-- With RAM in canonical form and the vector readable: BRK then RTI gives PC + 1 (the byte after BRK skipped), the
old SP and P with U and B 0; an IRQ taken with I clear then RTI gives the interrupted PC, the old SP and P with I set
and U and B 0, so that a further IRQ is dropped. (R149, R150, R188, R189.) -/
def Obligations.InterruptsReturn : Prop :=
  ∀ (s : State) (w : Word), Memory.wf 0x800 s.ram = true → wordAt 0xFFFE s = some w →
    (∃ t u, exec .brk s = .next t ∧ exec .rti t = .next u ∧ u.pc = s.pc + 1 ∧ u.sp = s.sp ∧ PulledFrom s.p u.p) ∧
    (s.cpuSet = true → flag .i s.p = false → ∃ t u, irqAction s = .next t ∧ t.pc = w ∧ exec .rti t = .next u ∧
      u.pc = s.pc ∧ u.sp = s.sp ∧ flag .i u.p = true ∧ flag .b u.p = false ∧ flag .u u.p = false ∧
      (∀ f : Flag, f ≠ .i → f ≠ .b → f ≠ .u → flag f u.p = flag f s.p) ∧
      irqAction u = .next { u with cycles := 0 })

/-- After reset: with I set, irq changes nothing and returns 0; with I clear and its vector readable, irq pushes the
bytes of PC, high byte first, then P with B 0, U and I 1, sets I in the live P, goes to the word at 0xFFFE and returns
7; nmi does the same whatever I is, with the word at 0xFFFA, and returns 8; nothing else changes. (R186, R187, R188.)
-/
def Obligations.IrqAndNmiEnterTheHandler : Prop :=
  ∀ (s : State) (w : Word), s.cpuSet = true →
    (flag .i s.p = true → irqAction s = .next { s with cycles := 0 }) ∧
    ∃ h l c q, h.toNat * 256 + l.toNat = s.pc.toNat ∧ InterruptCopy s.p c ∧ OneFlag .i true s.p q ∧
      (flag .i s.p = false → wordAt 0xFFFE s = some w → irqAction s = .next { s with
        ram := ramPushed s.ram s.sp [h, l, c], sp := s.sp - 3, p := q, pc := w, cycles := 7 }) ∧
      (wordAt 0xFFFA s = some w → nmiAction s = .next { s with
        ram := ramPushed s.ram s.sp [h, l, c], sp := s.sp - 3, p := q, pc := w, cycles := 8 })

/-- In every state, before or after a reset: where the vector at 0xFFFC/0xFFFD can be read, reset goes on with A = X =
Y = 0, SP = 0xFD, P = 0, PC the vector's word, the CPU registers set, 8 cycles, and RAM, the PPU and everything else
unchanged; a mapper that rejects a vector offset faults. (R199.) -/
def Obligations.ResetSetsTheCpuRegistersOnly : Prop :=
  ∀ s : State,
    (∀ w, wordAt 0xFFFC s = some w → resetAction s = .next { s with
      a := 0x00, x := 0x00, y := 0x00, sp := 0xFD, p := 0x00, pc := w, cpuSet := true, cycles := 8 }) ∧
    (prgAt s.mapper 0x7FFC = none → resetAction s = .fault (.mapperOffset 0x7FFC)) ∧
    (∀ b, prgAt s.mapper 0x7FFC = some b → prgAt s.mapper 0x7FFD = none →
      resetAction s = .fault (.mapperOffset 0x7FFD))

/-- If exec i goes on from s to t: with an operand m, the cycles are the base count of its class and mode (reading:
IMM 2, ZP0 3, ZPX ZPY ABS ABX ABY 4, IZX 6, IZY 5; storing: ZP0 3, ZPX ZPY ABS 4, ABX ABY 5, IZX IZY 6; read-modify-
write: ACC 2, ZP0 5, ZPX ABS 6, ABX 7), plus 1 exactly when resolving m left the page of its base and the policy is
all or i is ADC, AND, CMP, EOR, LDA, LDX, LDY, ORA or SBC; without one, the base count (countOf), plus 0, 1 or 2 for a
branch and nothing for any other instruction. (R67, R76, R77, R96, R132.) -/
def Obligations.CyclesAreBasePlusPenalties : Prop :=
  ∀ (i : Instr) (s t : State), exec i s = .next t →
    (∀ m n, operandOf i = some m →
      (i ∈ [.lda m, .ldx m, .ldy m, .adc m, .sbc m, .cmp m, .cpx m, .cpy m, .and m, .ora m, .eor m, .bit m] ∧
          (m.mode, n) ∈ [(Mode.imm, 2), (.zp0, 3), (.zpx, 4), (.zpy, 4), (.abs, 4), (.abx, 4), (.aby, 4), (.izx, 6),
            (.izy, 5)] ∨
        i ∈ [.sta m, .stx m, .sty m] ∧
          (m.mode, n) ∈ [(Mode.zp0, 3), (.zpx, 4), (.zpy, 4), (.abs, 4), (.abx, 5), (.aby, 5), (.izx, 6), (.izy, 6)] ∨
        i ∈ [.inc m, .dec m, .asl m, .lsr m, .rol m, .ror m] ∧
          (m.mode, n) ∈ [(Mode.acc, 2), (.zp0, 5), (.zpx, 6), (.abs, 6), (.abx, 7)]) →
      t.cycles = n + (if (resolve m s).crossed = true ∧ (s.params.pagePenalty = .all ∨
        i ∈ [.adc m, .and m, .cmp m, .eor m, .lda m, .ldx m, .ldy m, .ora m, .sbc m]) then 1 else 0)) ∧
    (∀ m, operandOf i = some m → t.cycles = cost i m s) ∧
    (operandOf i = none → t.cycles = countOf i ∨ transfersControl i = true ∧
      (∀ w, i ≠ .jsr w) ∧ (∀ j, i ≠ .jmp j) ∧ i ≠ .rts ∧ i ≠ .brk ∧ i ≠ .rti ∧
      (t.cycles = countOf i + 1 ∨ t.cycles = countOf i + 2))

/-- Two states with the same CHR, VRAM, palette and OAM and the same bits 3 and 4 of Control render the same, whatever
their CPU, RAM, PRG, mirror mode, Mask, Status, scroll bytes, addresses, latches, read buffer and other Control bits.
(R172, R173, R174.) -/
def Obligations.RenderDependsOnlyOnThePicture : Prop :=
  ∀ s t : State, t.mapper.chr = s.mapper.chr → t.mapper.chrRejects = s.mapper.chrRejects →
    t.ppu.vram = s.ppu.vram → t.ppu.palette = s.ppu.palette → t.ppu.oam = s.ppu.oam →
    t.ppu.ctrl.getLsbD 3 = s.ppu.ctrl.getLsbD 3 → t.ppu.ctrl.getLsbD 4 = s.ppu.ctrl.getLsbD 4 →
    render t = render s

/-- For any two frames of 256 × 240 × 3 bytes, rendering into either has the same outcome: the background pass writes
every pixel. (R172, R174, R182.) -/
def Obligations.RenderOverwritesTheWholeFrame : Prop :=
  ∀ (s : State) (f g : Frame), f.length = frameWidth * frameHeight * 3 → g.length = frameWidth * frameHeight * 3 →
    renderInto s f = renderInto s g

/-- Where the mapper serves all of CHR, render goes on with a frame of 256 × 240 × 3 bytes whose pixel (x, y) is the
colour of the first OAM entry that covers (x, y) with a non-zero colour index, flips undone, or else the background
tile's colour. pixelAt writes all of this out from the rules (the attribute bits of the quadrant, the shared entry 0,
the sprite palettes from 0x10, bit 6 the horizontal and bit 7 the vertical flip), with no function of the renderer.
(R174, R175, R176, R177, R178, R179, R180, R181, R182.) -/
def Obligations.RenderedPixelsAreTheFrontmostSprites : Prop :=
  ∀ s : State, (∀ off, off < 0x2000 → (chrAt s.mapper off).isSome = true) →
    ∃ f, render s = .next f ∧ f.length = frameWidth * frameHeight * 3 ∧
      ∀ px py, px < frameWidth → py < frameHeight → framePixel f px py = pixelAt s px py

/-- For off at most 0x7FFF, read_prg of the base mapper is prg[off] for 32 KB, prg[off & 0x3FFF] for 16 KB and
rejected for any other length; for off at most 0x1FFF, read_chr is chr[off] where the image has it and rejected where
not; mirror_mode is the cartridge's. (R54.) -/
def Obligations.BaseMapperIsAPassthrough : Prop :=
  ∀ (prg chr : List Byte) (mode : MirrorMode) (off : Nat),
    (off ≤ 0x7FFF → prg.length = 0x8000 → prgAt (baseMapper prg chr mode) off = prg[off]?) ∧
    (off ≤ 0x7FFF → prg.length = 0x4000 → prgAt (baseMapper prg chr mode) off = prg[off % 0x4000]?) ∧
    (off ≤ 0x7FFF → prg.length ≠ 0x8000 → prg.length ≠ 0x4000 → prgAt (baseMapper prg chr mode) off = none) ∧
    (off ≤ 0x1FFF → chrAt (baseMapper prg chr mode) off = chr[off]?) ∧
    (baseMapper prg chr mode).mirror = mode
end

