-- ==== Sys2Proof/Laws/Flags.lean ====
section
/-! SUPPORT. Reading a flag after the flag computations, and the two bits that every copy of P fixes. -/

namespace Sys2Proof.Machine

/-- A flag after a flag write: the written value at that flag, the old one elsewhere. -/
@[simp] theorem flag_setFlag (f g : Flag) (x : Bool) (p : Byte) :
    flag f (setFlag g x p) = if f = g then x else flag f p := by
  cases f <;> cases g <;> cases x <;> simp [flag, setFlag, Flag.bit]

/-- Two status bytes with the same flags are the same byte. -/
theorem flag_ext {p q : Byte} (h : ∀ f, flag f p = flag f q) : p = q := by
  apply BitVec.eq_of_getLsbD_eq
  intro i hi
  interval_cases i
  · exact h .c
  · exact h .z
  · exact h .i
  · exact h .d
  · exact h .b
  · exact h .u
  · exact h .v
  · exact h .n

/-- A flag after `setNZ`. -/
@[simp] theorem flag_setNZ (f : Flag) (r p : Byte) :
    flag f (setNZ r p) = if f = .n then r.getLsbD 7 else if f = .z then r == 0 else flag f p := by
  simp [setNZ]

/-- `setNZ` gives the status byte that `NZFrom` describes. -/
theorem setNZ_nzFrom (r p : Byte) : NZFrom r p (setNZ r p) := by
  refine ⟨by simp, by simp [beq_eq_decide], ?_⟩
  intro f hn hz
  simp [hn, hz]

/-- A flag of the copy that PHP and BRK push. -/
@[simp] theorem flag_pushedByProgram (f : Flag) (p : Byte) :
    flag f (pushedByProgram p) = if f = .u ∨ f = .b then true else flag f p := by
  cases f <;> simp [flag, pushedByProgram, Flag.bit]

/-- A flag of the copy that IRQ and NMI push. -/
@[simp] theorem flag_pushedByInterrupt (f : Flag) (p : Byte) :
    flag f (pushedByInterrupt p) = if f = .u ∨ f = .i then true else if f = .b then false else flag f p := by
  cases f <;> simp [flag, pushedByInterrupt, Flag.bit]

/-- A flag of what PLP and RTI make of a pulled byte. -/
@[simp] theorem flag_pulledStatus (f : Flag) (b : Byte) :
    flag f (pulledStatus b) = if f = .u ∨ f = .b then false else flag f b := by
  cases f <;> simp [flag, pulledStatus, Flag.bit]

end Sys2Proof.Machine
end

