-- ==== Sys2Proof/Laws/Memory.lean ====
section
/-! SUPPORT. Going on after an outcome, reading a memory after writing it, and the canonical form every write keeps. -/

namespace Sys2Proof.Machine

section Outcomes

variable {α β : Type}

@[simp] theorem andThen_next (x : α) (f : α → Result β) : andThen (.next x : Result α) f = f x := rfl
@[simp] theorem andThen_fault (e : Fault) (f : α → Result β) : andThen (.fault e : Result α) f = .fault e := rfl
@[simp] theorem andThen_refused (e : Refusal) (f : α → Result β) : andThen (.refused e : Result α) f = .refused e := rfl

/-- Two things in a row go on exactly when both do. -/
theorem andThen_eq_next {r : Result α} {f : α → Result β} {y : β} :
    andThen r f = .next y ↔ ∃ x, r = .next x ∧ f x = .next y := by
  cases r <;> simp

/-- Two things in a row fault exactly when the first does, or the second after it. -/
theorem andThen_eq_fault {r : Result α} {f : α → Result β} {e : Fault} :
    andThen r f = .fault e ↔ r = .fault e ∨ ∃ x, r = .next x ∧ f x = .fault e := by
  cases r <;> simp

/-- Two things in a row are refused exactly when the first is, or the second after it. -/
theorem andThen_eq_refused {r : Result α} {f : α → Result β} {e : Refusal} :
    andThen r f = .refused e ↔ r = .refused e ∨ ∃ x, r = .next x ∧ f x = .refused e := by
  cases r <;> simp

end Outcomes

/-- A read finds nothing below the first index of a rising list. -/
theorem memRead_below {bound lo k : Nat} {m : Memory} (h : Memory.wfFrom bound lo m = true) (hk : k < lo) :
    memRead m k = unlistedByte := by
  induction m generalizing lo with
  | nil => rfl
  | cons c rest ih =>
    obtain ⟨j, w⟩ := c
    simp only [Memory.wfFrom, Bool.and_eq_true, decide_eq_true_eq] at h
    rw [memRead, if_neg (by omega)]
    exact ih h.2 (by omega)

/-- A read after a write: the written byte at its index, the old byte elsewhere, in a memory of canonical form. -/
theorem memRead_memWrite {bound lo : Nat} {m : Memory} (h : Memory.wfFrom bound lo m = true) (k : Nat) (v : Byte)
    (j : Nat) : memRead (memWrite m k v) j = if k = j then v else memRead m j := by
  induction m generalizing lo with
  | nil =>
    simp only [memWrite]
    split <;> rename_i hv
    · subst hv; simp [memRead]
    · simp [memRead]
  | cons c rest ih =>
    obtain ⟨i, w⟩ := c
    simp only [Memory.wfFrom, Bool.and_eq_true, decide_eq_true_eq] at h
    obtain ⟨⟨⟨hlo, _⟩, _⟩, hrest⟩ := h
    have below : ∀ q, q ≤ i → memRead rest q = unlistedByte := fun q hq => memRead_below hrest (by omega)
    unfold memWrite
    split
    · split <;> rename_i hv
      · split <;> rename_i hj
        · subst hj hv; rw [memRead, if_neg (by omega)]; exact below _ (by omega)
        · rfl
      · simp only [memRead]
    · split
      · rename_i hki
        split <;> rename_i hv
        · split <;> rename_i hj
          · subst hj hv; exact below _ (by omega)
          · rw [memRead, if_neg (by omega)]
        · simp only [memRead]
          split
          · rfl
          · rw [if_neg (by omega)]
      · rw [memRead, ih hrest]
        by_cases hij : i = j
        · rw [if_pos hij, if_neg (by omega), memRead, if_pos hij]
        · rw [if_neg hij, memRead, if_neg hij]

/-- The byte read at the index just written. -/
theorem memRead_memWrite_same {bound : Nat} {m : Memory} (h : Memory.wf bound m = true) (k : Nat) (v : Byte) :
    memRead (memWrite m k v) k = v := by rw [memRead_memWrite h, if_pos rfl]

/-- Every other index reads as before. -/
theorem memRead_memWrite_other {bound : Nat} {m : Memory} (h : Memory.wf bound m = true) {k j : Nat} (hkj : k ≠ j)
    (v : Byte) : memRead (memWrite m k v) j = memRead m j := by rw [memRead_memWrite h, if_neg hkj]

/-- A rising list rises from any lower index. -/
theorem wfFrom_lower {bound lo lo' : Nat} {m : Memory} (h : Memory.wfFrom bound lo m = true) (hl : lo' ≤ lo) :
    Memory.wfFrom bound lo' m = true := by
  cases m with
  | nil => rfl
  | cons c rest =>
    obtain ⟨j, w⟩ := c
    simp only [Memory.wfFrom, Bool.and_eq_true, decide_eq_true_eq] at h ⊢
    exact ⟨⟨⟨by omega, h.1.1.2⟩, h.1.2⟩, h.2⟩

/-- A write below the bound keeps the canonical form. -/
theorem wfFrom_memWrite {bound lo : Nat} {m : Memory} (h : Memory.wfFrom bound lo m = true) {k : Nat} (hl : lo ≤ k)
    (hk : k < bound) (v : Byte) : Memory.wfFrom bound lo (memWrite m k v) = true := by
  induction m generalizing lo with
  | nil =>
    simp only [memWrite]
    split
    · rfl
    · simp [Memory.wfFrom, *]
  | cons c rest ih =>
    obtain ⟨j, w⟩ := c
    have h' := h
    simp only [Memory.wfFrom, Bool.and_eq_true, decide_eq_true_eq] at h
    obtain ⟨⟨⟨hlo, hjb⟩, hw⟩, hrest⟩ := h
    unfold memWrite
    split
    · split
      · exact h'
      · simp only [Memory.wfFrom, Bool.and_eq_true, decide_eq_true_eq]
        exact ⟨⟨⟨hl, hk⟩, ‹_›⟩, ⟨⟨by omega, hjb⟩, hw⟩, hrest⟩
    · split
      · rename_i hkj
        split
        · exact wfFrom_lower hrest (by omega)
        · simp only [Memory.wfFrom, Bool.and_eq_true, decide_eq_true_eq]
          exact ⟨⟨⟨hl, hk⟩, ‹_›⟩, wfFrom_lower hrest (by omega)⟩
      · simp only [Memory.wfFrom, Bool.and_eq_true, decide_eq_true_eq]
        exact ⟨⟨⟨hlo, hjb⟩, hw⟩, ih hrest (by omega)⟩

/-- A write below the bound keeps the canonical form of a whole memory. -/
theorem wf_memWrite {bound : Nat} {m : Memory} (h : Memory.wf bound m = true) {k : Nat} (hk : k < bound) (v : Byte) :
    Memory.wf bound (memWrite m k v) = true := wfFrom_memWrite h (Nat.zero_le k) hk v

/-- The memory of a list of bytes is in canonical form. -/
theorem wfFrom_memOfBytes {bound : Nat} (bs : List Byte) {k : Nat} (h : k + bs.length ≤ bound) :
    Memory.wfFrom bound k (memOfBytes k bs) = true := by
  induction bs generalizing k with
  | nil => rfl
  | cons b bs ih =>
    simp only [List.length_cons] at h
    unfold memOfBytes
    split
    · exact wfFrom_lower (ih (by omega)) (by omega)
    · simp only [Memory.wfFrom, Bool.and_eq_true, decide_eq_true_eq]
      exact ⟨⟨⟨le_refl k, by omega⟩, ‹_›⟩, ih (by omega)⟩

/-- The memory of a list of bytes reads as the list. -/
theorem memRead_memOfBytes (bs : List Byte) (k j : Nat) :
    memRead (memOfBytes k bs) j = if k ≤ j then bs.getD (j - k) unlistedByte else unlistedByte := by
  induction bs generalizing k with
  | nil => simp [memOfBytes, memRead]
  | cons b bs ih =>
    have tail : memRead (memOfBytes (k + 1) bs) j =
        if k + 1 ≤ j then bs.getD (j - (k + 1)) unlistedByte else unlistedByte := ih (k + 1)
    unfold memOfBytes
    rcases Nat.lt_trichotomy j k with hjk | hjk | hjk
    · rw [if_neg (by omega : ¬ k ≤ j)]
      rw [if_neg (by omega)] at tail
      split
      · exact tail
      · rw [memRead, if_neg (by omega)]; exact tail
    · subst hjk
      rw [if_neg (by omega)] at tail
      simp only [Nat.le_refl, if_true, Nat.sub_self, List.getD_cons_zero]
      split <;> rename_i hb
      · rw [tail, hb]
      · rw [memRead, if_pos rfl]
    · rw [if_pos (by omega : k ≤ j)]
      rw [if_pos (by omega)] at tail
      have : j - k = (j - (k + 1)) + 1 := by omega
      rw [this, List.getD_cons_succ]
      split
      · exact tail
      · rw [memRead, if_neg (by omega)]; exact tail

/-- Canonical memories that read the same everywhere are the same data. -/
theorem wfFrom_ext {bound lo : Nat} {m n : Memory} (hm : Memory.wfFrom bound lo m = true)
    (hn : Memory.wfFrom bound lo n = true) (h : ∀ k, memRead m k = memRead n k) : m = n := by
  induction m generalizing lo n with
  | nil =>
    cases n with
    | nil => rfl
    | cons c n =>
      obtain ⟨k, v⟩ := c
      have hk := h k
      simp [Memory.wfFrom, memRead] at hn hk
      exact absurd hk.symm hn.1.2
  | cons c m ih =>
    obtain ⟨k, v⟩ := c
    cases n with
    | nil =>
      have hk := h k
      simp [Memory.wfFrom, memRead] at hm hk
      exact absurd hk hm.1.2
    | cons d n =>
      obtain ⟨j, w⟩ := d
      simp only [Memory.wfFrom, Bool.and_eq_true, decide_eq_true_eq] at hm hn
      have kj : k = j := by
        rcases Nat.lt_trichotomy k j with hlt | heq | hgt
        · have hk := h k
          rw [memRead, if_pos rfl, memRead, if_neg (by omega), memRead_below hn.2 (by omega)] at hk
          exact absurd hk hm.1.2
        · exact heq
        · have hj := h j
          rw [memRead, if_neg (by omega), memRead_below hm.2 (by omega), memRead, if_pos rfl] at hj
          exact absurd hj.symm hn.1.2
      subst kj
      have vw : v = w := by
        have hk := h k
        rwa [memRead, if_pos rfl, memRead, if_pos rfl] at hk
      subst vw
      rw [ih hm.2 hn.2 fun i => ?_]
      by_cases hik : i = k
      · subst hik
        rw [memRead_below hm.2 (by omega), memRead_below hn.2 (by omega)]
      · have hi := h i
        rwa [memRead, if_neg (by omega), memRead, if_neg (by omega)] at hi

/-- Every memory of State.reset is in its canonical form. -/
theorem reset_memories_wf : Memory.wf 0x800 State.reset.ram = true ∧ Memory.wf 0x800 State.reset.ppu.vram = true ∧
    Memory.wf 0x100 State.reset.ppu.oam = true ∧ Memory.wf 0x20 State.reset.ppu.palette = true := ⟨rfl, rfl, rfl, rfl⟩

end Sys2Proof.Machine
end

