-- ==== Sys2Proof/Laws/Ops.lean ====
section
/-! SUPPORT. For each shared operation, one lemma that says everything it can do. -/

namespace Sys2Proof.Machine

/-! ## The Bus decoder -/

/-- An address below 0x2000 leads to RAM. -/
theorem busTarget_ram {a : Word} (h : a.toNat < 0x2000) : busTarget a = .ram (a.toNat % 0x800) := by
  simp [busTarget, h]

/-- An address in the PPU window leads to the register of its low three bits. -/
theorem busTarget_ppu {a : Word} (h : 0x2000 ≤ a.toNat) (h' : a.toNat < 0x4000) :
    busTarget a = .ppu (ppuRegOf ((a.toNat - 0x2000) % 8)) := by
  simp [busTarget, h', Nat.not_lt.mpr h]

/-- An address in 0x4000–0x7FFF leads nowhere. -/
theorem busTarget_unmapped {a : Word} (h : 0x4000 ≤ a.toNat) (h' : a.toNat < 0x8000) : busTarget a = .unmapped := by
  simp [busTarget, h', Nat.not_lt.mpr h, show ¬ a.toNat < 0x2000 by omega]

/-- An address from 0x8000 on leads to the cartridge's PRG. -/
theorem busTarget_prg {a : Word} (h : 0x8000 ≤ a.toNat) : busTarget a = .prg (a.toNat - 0x8000) := by
  simp [busTarget, Nat.not_lt.mpr h, show ¬ a.toNat < 0x2000 by omega, show ¬ a.toNat < 0x4000 by omega]

/-- A RAM index the decoder gives is below 0x800. -/
theorem busTarget_ram_lt {a : Word} {i : Nat} (h : busTarget a = .ram i) : i < 0x800 := by
  unfold busTarget at h
  dsimp only at h
  split at h
  · injection h with h; omega
  all_goals (try split at h) <;> (try split at h) <;> cases h

/-- A page-0 address leads to the RAM byte of its number: the pointer reads of `zeroPageWord` are Bus reads. -/
theorem busTarget_zeroPage (p : Byte) : busTarget (zext16 p) = .ram p.toNat := by
  have hp := p.isLt
  have h : (zext16 p).toNat = p.toNat := by simp [zext16]; omega
  rw [busTarget_ram (by omega), h, Nat.mod_eq_of_lt (by omega)]

/-- A stack address leads to the RAM byte of the stack index: `push` and `pull` are Bus accesses. -/
theorem busTarget_stack (sp : Byte) : busTarget (0x0100 ||| zext16 sp) = .ram (stackIndex sp) := by
  have hb := sp.isLt
  have h : ((0x0100 : Word) ||| zext16 sp).toNat = 0x100 + sp.toNat := by
    have e : ((0x0100 : Word) ||| zext16 sp) = (0x0100 : Word) + zext16 sp := by
      rw [BitVec.add_eq_or_of_and_eq_zero]
      ext i hi
      simp only [zext16, BitVec.getElem_and, BitVec.getElem_zero]
      interval_cases i <;> simp
    rw [e, BitVec.toNat_add]
    simp [zext16]
    omega
  rw [busTarget_ram (by omega), h, Nat.mod_eq_of_lt (by omega), stackIndex]

/-! ## The PPU address -/

/-- A masked word is at most 0x3FFF. -/
theorem mask14_le (w : Word) : (mask14 w).toNat ≤ 0x3FFF := by
  unfold mask14
  split
  · rw [BitVec.toNat_and]; exact Nat.and_le_right
  · omega

/-- Advancing leaves an address of at most 0x3FFF. -/
theorem advanceVaddr_le (n : Nat) (v : Word) : (advanceVaddr n v).toNat ≤ 0x3FFF := mask14_le _

@[simp] theorem Ppu.advance_eq (u : Ppu) :
    u.advance = { u with vaddr := advanceVaddr (vramIncrement u.ctrl) u.vaddr } := rfl

/-! ## What a Bus read can do -/

/-- `t` is `s` but for the PPU's address, address latch and read buffer and the number of draws. -/
def ReadLeaves (s t : State) : Prop :=
  ∃ va hi buf n, t = (s.setPpu { s.ppu with vaddr := va, addrHiNext := hi, readBuf := buf }).setDraws n ∧
    (s.ppu.vaddr.toNat ≤ 0x3FFF → va.toNat ≤ 0x3FFF)

theorem ReadLeaves.refl (s : State) : ReadLeaves s s := ⟨s.ppu.vaddr, s.ppu.addrHiNext, s.ppu.readBuf, s.draws, rfl, id⟩

theorem ReadLeaves.trans {s t u : State} (h : ReadLeaves s t) (h' : ReadLeaves t u) : ReadLeaves s u := by
  obtain ⟨va, hi, buf, n, rfl, hv⟩ := h
  obtain ⟨va', hi', buf', n', rfl, hv'⟩ := h'
  exact ⟨va', hi', buf', n', rfl, fun h => hv' (hv h)⟩

/-- A PPUDATA read that goes on changes only the address and the buffer. -/
theorem ppuDataRead_next {s t : State} {v : Byte} (h : ppuDataRead s = .next (v, t)) : ReadLeaves s t := by
  unfold ppuDataRead at h
  dsimp only at h
  split at h
  · obtain ⟨b, _, hb⟩ := andThen_eq_next.mp h
    cases hb
    exact ⟨_, _, b, s.draws, rfl, fun _ => advanceVaddr_le _ _⟩
  · cases h; exact ⟨_, _, _, s.draws, rfl, fun _ => advanceVaddr_le _ _⟩
  · cases h; exact ⟨_, _, _, s.draws, rfl, fun _ => advanceVaddr_le _ _⟩
  · cases h

/-- A read of a PPU register that goes on changes only the latch, the address, the buffer and the draws. -/
theorem ppuRead_next {r : PpuReg} {s t : State} {v : Byte} (h : ppuRead r s = .next (v, t)) : ReadLeaves s t := by
  have undefined : ∀ q, ppuUndefinedRead q s = .next (v, t) → ReadLeaves s t := by
    intro q hq
    unfold ppuUndefinedRead at hq
    split at hq
    · cases hq
    · cases hq; exact ⟨_, _, _, _, rfl, id⟩
  cases r
  case status => cases h; exact ⟨_, true, _, s.draws, rfl, id⟩
  case oamData => cases h; exact ReadLeaves.refl s
  case data => exact ppuDataRead_next h
  all_goals exact undefined _ h

/-- A Bus read that goes on changes only the PPU's latch, address and buffer and the draws. -/
theorem busRead_next {a : Word} {s t : State} {v : Byte} (h : busRead a s = .next (v, t)) : ReadLeaves s t := by
  unfold busRead at h
  split at h
  · cases h; exact ReadLeaves.refl s
  · exact ppuRead_next h
  · cases h; exact ReadLeaves.refl s
  · obtain ⟨b, _, hb⟩ := andThen_eq_next.mp h
    cases hb; exact ReadLeaves.refl s

/-- A Bus read outside the PPU window changes nothing. -/
theorem busRead_pure {a : Word} {s t : State} {v : Byte} (ha : ∀ r, busTarget a ≠ .ppu r)
    (h : busRead a s = .next (v, t)) : t = s := by
  unfold busRead at h
  split at h
  · cases h; rfl
  · exact absurd ‹_› (ha _)
  · cases h; rfl
  · obtain ⟨b, _, hb⟩ := andThen_eq_next.mp h
    cases hb; rfl

/-- A Bus read outside the PPU window goes on with the byte `peek` finds. -/
theorem busRead_of_peek {a : Word} {s : State} {b : Byte} (h : peek a s = some b) : busRead a s = .next (b, s) := by
  unfold peek at h
  unfold busRead
  split at h <;> simp_all [readPrg]

/-- A word read that goes on changes only the PPU's latch, address and buffer and the draws. -/
theorem read16_next {a w : Word} {s t : State} (h : read16 a s = .next (w, t)) : ReadLeaves s t := by
  obtain ⟨l, hl, h⟩ := andThen_eq_next.mp h
  obtain ⟨q, hq, h⟩ := andThen_eq_next.mp h
  cases h
  exact (busRead_next hl).trans (busRead_next hq)

/-! ## When an access goes on -/

/-- A Bus read goes on exactly where `readOk` says. -/
theorem busRead_ok {a : Word} {s : State} : readOk a s = true ↔ ∃ v t, busRead a s = .next (v, t) := by
  unfold readOk busRead
  cases busTarget a with
  | ram i => simp
  | unmapped => simp
  | prg off => cases h : prgAt s.mapper off <;> simp [readPrg, h]
  | ppu r =>
    cases r <;> simp only [portReadOk, ppuRead, undefinedPortsOk, ppuUndefinedRead, dataReadOk, ppuDataRead]
    case data =>
      cases ppuTarget s.params s.mapper.mirror s.ppu.vaddr with
      | chr off => cases h : chrAt s.mapper off <;> simp [readChr, h]
      | _ => simp
    all_goals cases s.params.undefinedPort <;> simp

/-- A Bus write goes on exactly where `writeOk` says. -/
theorem busWrite_ok {a : Word} {v : Byte} {s : State} : writeOk a s = true ↔ ∃ t, busWrite a v s = .next t := by
  unfold writeOk busWrite
  cases busTarget a with
  | ram i => simp
  | unmapped => simp
  | prg off => simp
  | ppu r =>
    cases r <;> simp only [ppuWrite, undefinedPortsOk, ppuUndefinedWrite, routed, ppuDataWrite]
    case status => cases s.params.undefinedPort <;> simp
    case data => cases ppuTarget s.params s.mapper.mirror s.ppu.vaddr <;> simp
    all_goals simp

/-- No Bus read is refused. -/
theorem busRead_not_refused {a : Word} {s : State} {e : Refusal} : busRead a s ≠ .refused e := by
  unfold busRead
  cases busTarget a with
  | ram i => simp
  | unmapped => simp
  | prg off => cases h : prgAt s.mapper off <;> simp [readPrg, h]
  | ppu r =>
    cases r <;> simp only [ppuRead, ppuUndefinedRead, ppuDataRead]
    case data =>
      cases ppuTarget s.params s.mapper.mirror s.ppu.vaddr with
      | chr off => cases h : chrAt s.mapper off <;> simp [readChr, h]
      | _ => simp
    all_goals cases s.params.undefinedPort <;> simp

/-- No Bus write is refused. -/
theorem busWrite_not_refused {a : Word} {v : Byte} {s : State} {e : Refusal} : busWrite a v s ≠ .refused e := by
  unfold busWrite
  cases busTarget a with
  | ram i => simp
  | unmapped => simp
  | prg off => simp
  | ppu r =>
    cases r <;> simp only [ppuWrite, ppuUndefinedWrite, ppuDataWrite]
    case status => cases s.params.undefinedPort <;> simp
    case data => cases ppuTarget s.params s.mapper.mirror s.ppu.vaddr <;> simp
    all_goals simp

/-! ## What a Bus write can do -/

/-- A Bus write that goes on changes only RAM and the PPU, not the PPU's Status byte and read buffer. -/
theorem busWrite_next {a : Word} {v : Byte} {s t : State} (h : busWrite a v s = .next t) :
    ∃ ram u, t = (s.setRam ram).setPpu u ∧ u.status = s.ppu.status ∧ u.readBuf = s.ppu.readBuf := by
  unfold busWrite at h
  split at h
  · rename_i i _
    cases h; exact ⟨memWrite s.ram i v, s.ppu, rfl, rfl, rfl⟩
  · rename_i r _
    cases r <;> simp only [ppuWrite, ppuUndefinedWrite] at h
    case status =>
      split at h
      · cases h
      · cases h; exact ⟨s.ram, s.ppu, rfl, rfl, rfl⟩
    case data =>
      unfold ppuDataWrite at h
      dsimp only at h
      split at h <;> cases h <;> exact ⟨s.ram, _, rfl, rfl, rfl⟩
    case scroll =>
      cases h
      refine ⟨s.ram, _, rfl, ?_, ?_⟩ <;> unfold scrollWrite <;> split <;> rfl
    all_goals cases h; exact ⟨s.ram, _, rfl, rfl, rfl⟩
  · cases h; exact ⟨s.ram, s.ppu, rfl, rfl, rfl⟩
  · cases h; exact ⟨s.ram, s.ppu, rfl, rfl, rfl⟩

/-- A Bus write outside the PPU window changes RAM only. -/
theorem busWrite_ram {a : Word} {v : Byte} {s : State} {i : Nat} (ha : busTarget a = .ram i) :
    busWrite a v s = .next (s.setRam (memWrite s.ram i v)) := by
  unfold busWrite
  rw [ha]

/-! ## Stack and interrupts -/

/-- `push` is a Bus write at the stack address and a decrement of SP. -/
theorem push_is_busWrite (v : Byte) (s : State) :
    busWrite (0x0100 ||| zext16 s.sp) v s = .next ((push v s).setSp s.sp) := by
  rw [busWrite_ram (busTarget_stack s.sp)]
  rfl

/-- `pull` is an increment of SP and a Bus read at the stack address. -/
theorem pull_is_busRead (s : State) :
    busRead (0x0100 ||| zext16 (s.sp + 1)) (pulled s) = .next (pullByte s, pulled s) := by
  unfold busRead
  rw [busTarget_stack]
  rfl

/-- Taking an interrupt goes on exactly where the vector can be read, with three pushed bytes, I set and PC at the
vector's word; a Bus read of the vector can change only the PPU. -/
theorem enterInterrupt_next {vector ret : Word} {copy : Byte} {s t : State}
    (h : enterInterrupt vector ret copy s = .next t) :
    ∃ w u, read16 vector ((push copy (pushWord ret s)).setP (setFlag .i true s.p)) = .next (w, u) ∧ t = u.setPc w := by
  obtain ⟨r, hr, h⟩ := andThen_eq_next.mp h
  cases h
  exact ⟨_, _, hr, rfl⟩

end Sys2Proof.Machine
end

