-- ==== Sys2Proof/Laws/Operands.lean ====
section
/-! SUPPORT. What the operand accessor and the shapes of an instruction's meaning can do. -/

namespace Sys2Proof.Machine

/-- A load that goes on changes only the PPU's latch, address and buffer and the draws. -/
theorem load_next {o : Opnd} {s t : State} {v : Byte} (h : load o s = .next (v, t)) : ReadLeaves s t := by
  cases o with
  | acc => cases h; exact ReadLeaves.refl s
  | imm w => cases h; exact ReadLeaves.refl s
  | addr ea => exact busRead_next h

/-- A load goes on exactly where `operandReadOk` says. -/
theorem load_ok {m : Operand} {s : State} :
    operandReadOk m s = true ↔ ∃ v t, load (resolve m s).opnd s = .next (v, t) := by
  unfold operandReadOk load
  cases (resolve m s).opnd with
  | acc => simp
  | imm v => simp
  | addr ea => exact busRead_ok

/-- A load that goes on is what rule R94 says of it. -/
theorem load_iff_loaded {o : Opnd} {s t : State} {v : Byte} : load o s = .next (v, t) ↔ Loaded o s v t := by
  cases o <;> simp [load, Loaded, eq_comm]

/-- A store that goes on is what rule R95 says of it. -/
theorem store_iff_stored {o : Opnd} {v : Byte} {s t : State} : store o v s = .next t ↔ Stored o v s t := by
  cases o <;> simp [store, Stored, State.setA, eq_comm]

/-- No load is refused. -/
theorem load_not_refused {o : Opnd} {s : State} {e : Refusal} : load o s ≠ .refused e := by
  cases o with
  | acc => simp [load]
  | imm v => simp [load]
  | addr ea => exact busRead_not_refused

/-- A store that goes on writes A, or is a Bus write. -/
theorem store_next {o : Opnd} {v : Byte} {s t : State} (h : store o v s = .next t) :
    (o = .acc ∧ t = s.setA v) ∨ ∃ ea, o = .addr ea ∧ busWrite ea v s = .next t := by
  cases o with
  | acc => cases h; exact .inl ⟨rfl, rfl⟩
  | imm w => cases h
  | addr ea => exact .inr ⟨ea, rfl, h⟩

/-- An instruction with an operand goes on where its form exists and its handler goes on. -/
theorem withOperand_next {i : Instr} {modes : List Mode} {m : Operand} {handler : Opnd → State → Result State}
    {s t : State} (h : withOperand i modes m handler s = .next t) :
    m.mode ∈ modes ∧ ∃ u, handler (resolve m s).opnd s = .next u ∧ t = finish i (resolve m s).crossed 0 u := by
  unfold withOperand at h
  split at h
  · obtain ⟨u, hu, h⟩ := andThen_eq_next.mp h
    cases h
    exact ⟨‹_›, u, hu, rfl⟩
  · cases h

/-- A loading handler goes on with what its load gives. -/
theorem loadThen_next {f : Byte → State → State} {o : Opnd} {s t : State} (h : loadThen f o s = .next t) :
    ∃ v u, load o s = .next (v, u) ∧ t = f v u := by
  obtain ⟨r, hr, h⟩ := andThen_eq_next.mp h
  cases h
  exact ⟨_, _, hr, rfl⟩

/-- A read-modify-write handler goes on with one load and one store of the same operand. -/
theorem modify_next {f : ByteOp} {o : Opnd} {s t : State} (h : modify f o s = .next t) :
    ∃ v u w, load o s = .next (v, u) ∧ store o (f v u.p).1 u = .next w ∧ t = w.setP (f v u.p).2 := by
  obtain ⟨r, hr, h⟩ := andThen_eq_next.mp h
  obtain ⟨w, hw, h⟩ := andThen_eq_next.mp h
  cases h
  exact ⟨_, _, _, hr, hw, rfl⟩

/-- The cycle count is all that `finish` writes. -/
theorem finish_eq (i : Instr) (crossed : Bool) (extra : Nat) (s : State) :
    finish i crossed extra s = s.setCycles (baseCycles i + pagePenalty s.params i crossed + extra) := rfl

/-- The page penalty is 0 where no page was crossed. -/
@[simp] theorem pagePenalty_false (ps : Params) (i : Instr) : pagePenalty ps i false = 0 := by
  unfold pagePenalty
  cases ps.pagePenalty <;> simp

/-- The page penalty is at most 1. -/
theorem pagePenalty_le (ps : Params) (i : Instr) (crossed : Bool) : pagePenalty ps i crossed ≤ 1 := by
  unfold pagePenalty
  cases ps.pagePenalty <;> (dsimp only; split) <;> omega

/-- The decoder's base count of an instruction with an operand is the count of its class and mode (R67). -/
theorem baseCycles_eq_countOf {i : Instr} {m : Operand} (hm : operandOf i = some m) (hi : wellFormed i = true) :
    baseCycles i = countOf i := by
  cases i <;> cases hm <;> cases m <;> first | rfl | cases hi

/-- The page penalty of an instruction with an operand, in the words of R96. -/
theorem pagePenalty_eq {i : Instr} {m : Operand} (hm : operandOf i = some m) (ps : Params) (crossed : Bool) :
    pagePenalty ps i crossed = if crossed = true ∧ (ps.pagePenalty = .all ∨
      i ∈ [.adc m, .and m, .cmp m, .eor m, .lda m, .ldx m, .ldy m, .ora m, .sbc m]) then 1 else 0 := by
  unfold pagePenalty
  cases ps.pagePenalty <;> cases crossed <;> cases i <;> cases hm <;> simp [penalisedRead]

end Sys2Proof.Machine
end

