-- ==== Sys2Proof/Laws/PerInstr.lean ====
section
/-! SUPPORT. The per-instruction family EncodedForm: a row of the opcode table has an opcode, and its operand bytes are as
many as the decoder fetches for that opcode (30_encoding.md R61, R64). -/

namespace Sys2Proof.Laws.EncodedForm

/-- A well-formed instruction has an opcode, followed by as many operand bytes as that opcode's mode consumes. -/
def Statement (i : Instr) : Prop :=
  wellFormed i = true → ∃ op, opcodeOf i = some op ∧ (operandBytes i).length = operandBytesOf op

theorem lda (m : Operand) : Statement (.lda m) := by
  intro h
  cases m <;> first | exact ⟨_, rfl, rfl⟩ | exact (Bool.false_ne_true h).elim

theorem ldx (m : Operand) : Statement (.ldx m) := by
  intro h
  cases m <;> first | exact ⟨_, rfl, rfl⟩ | exact (Bool.false_ne_true h).elim

theorem ldy (m : Operand) : Statement (.ldy m) := by
  intro h
  cases m <;> first | exact ⟨_, rfl, rfl⟩ | exact (Bool.false_ne_true h).elim

theorem sta (m : Operand) : Statement (.sta m) := by
  intro h
  cases m <;> first | exact ⟨_, rfl, rfl⟩ | exact (Bool.false_ne_true h).elim

theorem stx (m : Operand) : Statement (.stx m) := by
  intro h
  cases m <;> first | exact ⟨_, rfl, rfl⟩ | exact (Bool.false_ne_true h).elim

theorem sty (m : Operand) : Statement (.sty m) := by
  intro h
  cases m <;> first | exact ⟨_, rfl, rfl⟩ | exact (Bool.false_ne_true h).elim

theorem tax : Statement .tax := fun _ => ⟨_, rfl, rfl⟩

theorem tay : Statement .tay := fun _ => ⟨_, rfl, rfl⟩

theorem txa : Statement .txa := fun _ => ⟨_, rfl, rfl⟩

theorem tya : Statement .tya := fun _ => ⟨_, rfl, rfl⟩

theorem tsx : Statement .tsx := fun _ => ⟨_, rfl, rfl⟩

theorem txs : Statement .txs := fun _ => ⟨_, rfl, rfl⟩

theorem adc (m : Operand) : Statement (.adc m) := by
  intro h
  cases m <;> first | exact ⟨_, rfl, rfl⟩ | exact (Bool.false_ne_true h).elim

theorem sbc (m : Operand) : Statement (.sbc m) := by
  intro h
  cases m <;> first | exact ⟨_, rfl, rfl⟩ | exact (Bool.false_ne_true h).elim

theorem cmp (m : Operand) : Statement (.cmp m) := by
  intro h
  cases m <;> first | exact ⟨_, rfl, rfl⟩ | exact (Bool.false_ne_true h).elim

theorem cpx (m : Operand) : Statement (.cpx m) := by
  intro h
  cases m <;> first | exact ⟨_, rfl, rfl⟩ | exact (Bool.false_ne_true h).elim

theorem cpy (m : Operand) : Statement (.cpy m) := by
  intro h
  cases m <;> first | exact ⟨_, rfl, rfl⟩ | exact (Bool.false_ne_true h).elim

theorem and (m : Operand) : Statement (.and m) := by
  intro h
  cases m <;> first | exact ⟨_, rfl, rfl⟩ | exact (Bool.false_ne_true h).elim

theorem ora (m : Operand) : Statement (.ora m) := by
  intro h
  cases m <;> first | exact ⟨_, rfl, rfl⟩ | exact (Bool.false_ne_true h).elim

theorem eor (m : Operand) : Statement (.eor m) := by
  intro h
  cases m <;> first | exact ⟨_, rfl, rfl⟩ | exact (Bool.false_ne_true h).elim

theorem bit (m : Operand) : Statement (.bit m) := by
  intro h
  cases m <;> first | exact ⟨_, rfl, rfl⟩ | exact (Bool.false_ne_true h).elim

theorem inc (m : Operand) : Statement (.inc m) := by
  intro h
  cases m <;> first | exact ⟨_, rfl, rfl⟩ | exact (Bool.false_ne_true h).elim

theorem dec (m : Operand) : Statement (.dec m) := by
  intro h
  cases m <;> first | exact ⟨_, rfl, rfl⟩ | exact (Bool.false_ne_true h).elim

theorem inx : Statement .inx := fun _ => ⟨_, rfl, rfl⟩

theorem iny : Statement .iny := fun _ => ⟨_, rfl, rfl⟩

theorem dex : Statement .dex := fun _ => ⟨_, rfl, rfl⟩

theorem dey : Statement .dey := fun _ => ⟨_, rfl, rfl⟩

theorem asl (m : Operand) : Statement (.asl m) := by
  intro h
  cases m <;> first | exact ⟨_, rfl, rfl⟩ | exact (Bool.false_ne_true h).elim

theorem lsr (m : Operand) : Statement (.lsr m) := by
  intro h
  cases m <;> first | exact ⟨_, rfl, rfl⟩ | exact (Bool.false_ne_true h).elim

theorem rol (m : Operand) : Statement (.rol m) := by
  intro h
  cases m <;> first | exact ⟨_, rfl, rfl⟩ | exact (Bool.false_ne_true h).elim

theorem ror (m : Operand) : Statement (.ror m) := by
  intro h
  cases m <;> first | exact ⟨_, rfl, rfl⟩ | exact (Bool.false_ne_true h).elim

theorem bcc (off : Byte) : Statement (.bcc off) := fun _ => ⟨_, rfl, rfl⟩

theorem bcs (off : Byte) : Statement (.bcs off) := fun _ => ⟨_, rfl, rfl⟩

theorem beq (off : Byte) : Statement (.beq off) := fun _ => ⟨_, rfl, rfl⟩

theorem bne (off : Byte) : Statement (.bne off) := fun _ => ⟨_, rfl, rfl⟩

theorem bmi (off : Byte) : Statement (.bmi off) := fun _ => ⟨_, rfl, rfl⟩

theorem bpl (off : Byte) : Statement (.bpl off) := fun _ => ⟨_, rfl, rfl⟩

theorem bvc (off : Byte) : Statement (.bvc off) := fun _ => ⟨_, rfl, rfl⟩

theorem bvs (off : Byte) : Statement (.bvs off) := fun _ => ⟨_, rfl, rfl⟩

theorem jmp (j : JumpOperand) : Statement (.jmp j) := by
  intro _
  cases j <;> exact ⟨_, rfl, rfl⟩

theorem jsr (w : Word) : Statement (.jsr w) := fun _ => ⟨_, rfl, rfl⟩

theorem rts : Statement .rts := fun _ => ⟨_, rfl, rfl⟩

theorem pha : Statement .pha := fun _ => ⟨_, rfl, rfl⟩

theorem pla : Statement .pla := fun _ => ⟨_, rfl, rfl⟩

theorem php : Statement .php := fun _ => ⟨_, rfl, rfl⟩

theorem plp : Statement .plp := fun _ => ⟨_, rfl, rfl⟩

theorem brk : Statement .brk := fun _ => ⟨_, rfl, rfl⟩

theorem rti : Statement .rti := fun _ => ⟨_, rfl, rfl⟩

theorem clc : Statement .clc := fun _ => ⟨_, rfl, rfl⟩

theorem sec : Statement .sec := fun _ => ⟨_, rfl, rfl⟩

theorem cli : Statement .cli := fun _ => ⟨_, rfl, rfl⟩

theorem sei : Statement .sei := fun _ => ⟨_, rfl, rfl⟩

theorem cld : Statement .cld := fun _ => ⟨_, rfl, rfl⟩

theorem sed : Statement .sed := fun _ => ⟨_, rfl, rfl⟩

theorem clv : Statement .clv := fun _ => ⟨_, rfl, rfl⟩

theorem nop : Statement .nop := fun _ => ⟨_, rfl, rfl⟩

/-- No unknown opcode has a row of the dispatch table. -/
theorem lookupRow_unknown : ∀ op ∈ unknownOpcodes, (lookupRow op).isNone = true := by decide

theorem unknown (op : Byte) : Statement (.unknown op) := by
  intro h
  have hm : op ∈ unknownOpcodes := by simpa [wellFormed] using h
  refine ⟨op, by simp [opcodeOf, hm], ?_⟩
  have hn := lookupRow_unknown op hm
  cases hr : lookupRow op with
  | none => simp [operandBytesOf, hr, operandBytes]
  | some r => simp [hr] at hn

end Sys2Proof.Laws.EncodedForm
end

