-- ==== Sys2Proof/Machine/Asm.lean ====
section
/-! DEFINITION. The assembler text of an instruction (30_encoding.md R62, R70) and the branch offset an assembler encodes.
The machine does not use it. -/

namespace Sys2Proof

/-- The hexadecimal digits of a number below 16. -/
def hexDigit (n : Nat) : String :=
  match ["0", "1", "2", "3", "4", "5", "6", "7", "8", "9", "A", "B", "C", "D", "E", "F"][n]? with
  | some d => d
  | none => "0"

/-- `$nn`. -/
def byteText (b : Byte) : String := "$" ++ hexDigit (b.toNat / 16) ++ hexDigit (b.toNat % 16)

/-- `$nnnn`. -/
def wordText (w : Word) : String :=
  "$" ++ hexDigit (w.toNat / 4096) ++ hexDigit (w.toNat / 256 % 16) ++ hexDigit (w.toNat / 16 % 16) ++ hexDigit (w.toNat % 16)

/-- The operand notation of a mode (R62, last column). -/
def Operand.text : Operand → String
  | .acc => "A"
  | .imm v => "#" ++ byteText v
  | .zp0 b => byteText b
  | .zpx b => byteText b ++ ",X"
  | .zpy b => byteText b ++ ",Y"
  | .abs w => wordText w
  | .abx w => wordText w ++ ",X"
  | .aby w => wordText w ++ ",Y"
  | .izx b => "(" ++ byteText b ++ ",X)"
  | .izy b => "(" ++ byteText b ++ "),Y"

/-- The operand notation of JMP (R62). -/
def JumpOperand.text : JumpOperand → String
  | .abj w => wordText w
  | .ind w => "(" ++ wordText w ++ ")"

/-- The operand of a branch at address `at0` is written as its target (R70). -/
def branchText (at0 : Word) (off : Byte) : String := wordText (at0 + 2 + sext16 off)

/-- The assembler line of an instruction that stands at address `at0` (R70): a three-letter mnemonic followed by the
operand notation of its mode. An unknown opcode has no mnemonic. -/
def asmText (at0 : Word) : Instr → String
  | .lda m => "LDA " ++ m.text
  | .ldx m => "LDX " ++ m.text
  | .ldy m => "LDY " ++ m.text
  | .sta m => "STA " ++ m.text
  | .stx m => "STX " ++ m.text
  | .sty m => "STY " ++ m.text
  | .tax => "TAX"
  | .tay => "TAY"
  | .txa => "TXA"
  | .tya => "TYA"
  | .tsx => "TSX"
  | .txs => "TXS"
  | .adc m => "ADC " ++ m.text
  | .sbc m => "SBC " ++ m.text
  | .cmp m => "CMP " ++ m.text
  | .cpx m => "CPX " ++ m.text
  | .cpy m => "CPY " ++ m.text
  | .and m => "AND " ++ m.text
  | .ora m => "ORA " ++ m.text
  | .eor m => "EOR " ++ m.text
  | .bit m => "BIT " ++ m.text
  | .inc m => "INC " ++ m.text
  | .dec m => "DEC " ++ m.text
  | .inx => "INX"
  | .iny => "INY"
  | .dex => "DEX"
  | .dey => "DEY"
  | .asl m => "ASL " ++ m.text
  | .lsr m => "LSR " ++ m.text
  | .rol m => "ROL " ++ m.text
  | .ror m => "ROR " ++ m.text
  | .bcc off => "BCC " ++ branchText at0 off
  | .bcs off => "BCS " ++ branchText at0 off
  | .beq off => "BEQ " ++ branchText at0 off
  | .bne off => "BNE " ++ branchText at0 off
  | .bmi off => "BMI " ++ branchText at0 off
  | .bpl off => "BPL " ++ branchText at0 off
  | .bvc off => "BVC " ++ branchText at0 off
  | .bvs off => "BVS " ++ branchText at0 off
  | .jmp j => "JMP " ++ j.text
  | .jsr w => "JSR " ++ wordText w
  | .rts => "RTS"
  | .pha => "PHA"
  | .pla => "PLA"
  | .php => "PHP"
  | .plp => "PLP"
  | .brk => "BRK"
  | .rti => "RTI"
  | .clc => "CLC"
  | .sec => "SEC"
  | .cli => "CLI"
  | .sei => "SEI"
  | .cld => "CLD"
  | .sed => "SED"
  | .clv => "CLV"
  | .nop => "NOP"
  | .unknown _ => "UNKNOWN"

/-- The offset byte an assembler encodes for a branch at `at0` to `target` (R70): `target − (at0 + 2)`, which must lie in
−128..127; none otherwise. -/
def branchOffset (at0 target : Word) : Option Byte :=
  let d := target - (at0 + 2)
  if sext16 (loByte d) = d then some (loByte d) else none

end Sys2Proof
end

