-- ==== Sys2Proof/Tests/Slice0.lean ====
section
/-! SUPPORT. The model's own tests: ill-formed terms refused, words written out from the spec's encodings, single steps of
95_test_vectors.md (the vector's number stands in each test's docstring), and for every obligation with hypotheses a concrete
state and operands that meet them. -/

namespace Sys2Proof.Tests

open Sys2Proof Sys2Proof.Machine

/-- What a step that goes on shows of its next state. -/
def seen {α : Type} (f : State → α) : Result State → Option α
  | .next t => some (f t)
  | .fault _ => none
  | .refused _ => none

/-- The fault that ends an action. -/
def faultOf {α : Type} : Result α → Option Fault
  | .next _ => none
  | .fault e => some e
  | .refused _ => none

/-- The refusal that ends an action. -/
def refusalOf {α : Type} : Result α → Option Refusal
  | .next _ => none
  | .fault _ => none
  | .refused e => some e

/-- What an access or a computation that goes on gives. -/
def got {α : Type} : Result α → Option α
  | .next x => some x
  | .fault _ => none
  | .refused _ => none

/-- The action goes on with exactly this. -/
def goesTo {α : Type} [DecidableEq α] (r : Result α) (x : α) : Bool :=
  match r with
  | .next y => decide (y = x)
  | .fault _ => false
  | .refused _ => false

theorem next_of_goesTo {α : Type} [DecidableEq α] {r : Result α} {x : α} (h : goesTo r x = true) : r = .next x := by
  unfold goesTo at h
  split at h
  · rw [of_decide_eq_true h]
  · cases h
  · cases h

/-- The machine after reset with the bytes at 0x8000 and PC there. -/
def prog (bytes : List Byte) : State :=
  { State.reset with pc := 0x8000, mapper := { Mapper.unlisted with prg := memOfBytes 0 bytes } }

/-- The machine after reset with one RAM byte and the bytes at 0x8000. -/
def progRam (ram : Memory) (bytes : List Byte) : State := { prog bytes with ram := ram }

/-- The machine after reset with the PPU's state changed. -/
def withPpu (f : Ppu → Ppu) : State := { State.reset with ppu := f State.reset.ppu }

/-- The parameters with the console's choices (00_scope.md R9). -/
def hwParams : Params := { pagePenalty := .readsOnly, cmpWritesV := false, undefinedPort := .hw, unrouted := .hwMirror }

/-- A, P and the cycle count. -/
def apc (t : State) : Byte × Byte × Nat := (t.a, t.p, t.cycles)

/-- The decoder gives a row of the table. -/
def decodesWellFormed (bytes : List Byte) : Bool :=
  match decode bytes with
  | .ok i _ => wellFormed i
  | .refused _ => false

/-! ## Well-formedness: one ill-formed term for each check -/

theorem test_accumulator_modes_refuse : wellFormed (.lda .acc) = false ∧ wellFormed (.adc (.zpy 1)) = false ∧
    wellFormed (.sbc .acc) = false ∧ wellFormed (.cmp .acc) = false ∧ wellFormed (.and .acc) = false ∧
    wellFormed (.ora (.zpy 0)) = false ∧ wellFormed (.eor .acc) = false := by decide

theorem test_index_modes_refuse : wellFormed (.ldx (.zpx 0)) = false ∧ wellFormed (.ldy (.zpy 0)) = false ∧
    wellFormed (.sta (.imm 0)) = false ∧ wellFormed (.stx (.zpx 0)) = false ∧ wellFormed (.sty (.abx 0)) = false ∧
    wellFormed (.cpx (.zpx 0)) = false ∧ wellFormed (.cpy (.abx 0)) = false := by decide

theorem test_modify_modes_refuse : wellFormed (.bit (.imm 0)) = false ∧ wellFormed (.inc .acc) = false ∧
    wellFormed (.dec (.aby 0)) = false ∧ wellFormed (.asl (.imm 0)) = false ∧ wellFormed (.lsr (.izx 0)) = false ∧
    wellFormed (.rol (.aby 0)) = false ∧ wellFormed (.ror (.zpy 0)) = false := by decide

theorem test_documented_opcode_is_not_unknown : wellFormed (.unknown 0xA9) = false ∧ wellFormed (.unknown 0x00) = false ∧
    wellFormed (.unknown 0xFF) = true := by decide

theorem test_ill_formed_has_no_encoding : encode (.lda .acc) = [] ∧ encode (.unknown 0xA9) = [] := by decide

theorem test_ill_formed_is_refused_by_exec : refusalOf (exec (.lda .acc) State.reset) = some .noSuchForm ∧
    refusalOf (exec (.unknown 0xA9) State.reset) = some .noSuchForm := by decide

/-! ## Decoding: every constructor by a word written out from 30_encoding.md R61, R67, R68 -/

theorem test_decode_loads : decode [0xA9, 0x10] = .ok (.lda (.imm 0x10)) [] ∧
    decode [0xB1, 0x40] = .ok (.lda (.izy 0x40)) [] ∧ decode [0xB6, 0xFF] = .ok (.ldx (.zpy 0xFF)) [] ∧
    decode [0xBC, 0xFF, 0x02] = .ok (.ldy (.abx 0x02FF)) [] := by decide

theorem test_decode_stores : decode [0x91, 0x10] = .ok (.sta (.izy 0x10)) [] ∧
    decode [0x8E, 0x00, 0x02] = .ok (.stx (.abs 0x0200)) [] ∧ decode [0x94, 0xFF] = .ok (.sty (.zpx 0xFF)) [] := by
  decide

theorem test_decode_transfers : decode [0xAA] = .ok .tax [] ∧ decode [0xA8] = .ok .tay [] ∧
    decode [0x8A] = .ok .txa [] ∧ decode [0x98] = .ok .tya [] ∧ decode [0xBA] = .ok .tsx [] ∧
    decode [0x9A] = .ok .txs [] := by decide

theorem test_decode_arithmetic : decode [0x61, 0x20] = .ok (.adc (.izx 0x20)) [] ∧
    decode [0xF9, 0x34, 0x12] = .ok (.sbc (.aby 0x1234)) [] ∧ decode [0xC9, 0x05] = .ok (.cmp (.imm 0x05)) [] ∧
    decode [0xEC, 0x07, 0x20] = .ok (.cpx (.abs 0x2007)) [] ∧ decode [0xC4, 0x80] = .ok (.cpy (.zp0 0x80)) [] := by
  decide

theorem test_decode_logic : decode [0x35, 0x01] = .ok (.and (.zpx 0x01)) [] ∧
    decode [0x0D, 0xCD, 0xAB] = .ok (.ora (.abs 0xABCD)) [] ∧ decode [0x49, 0xFF] = .ok (.eor (.imm 0xFF)) [] ∧
    decode [0x2C, 0x02, 0x20] = .ok (.bit (.abs 0x2002)) [] := by decide

theorem test_decode_increments : decode [0xFE, 0xFF, 0x02] = .ok (.inc (.abx 0x02FF)) [] ∧
    decode [0xC6, 0x10] = .ok (.dec (.zp0 0x10)) [] ∧ decode [0xE8] = .ok .inx [] ∧ decode [0xC8] = .ok .iny [] ∧
    decode [0xCA] = .ok .dex [] ∧ decode [0x88] = .ok .dey [] := by decide

theorem test_decode_shifts : decode [0x0A] = .ok (.asl .acc) [] ∧ decode [0x46, 0x20] = .ok (.lsr (.zp0 0x20)) [] ∧
    decode [0x2E, 0x00, 0x03] = .ok (.rol (.abs 0x0300)) [] ∧ decode [0x76, 0x12] = .ok (.ror (.zpx 0x12)) [] := by
  decide

theorem test_decode_branches : decode [0x90, 0x10] = .ok (.bcc 0x10) [] ∧ decode [0xB0, 0x7F] = .ok (.bcs 0x7F) [] ∧
    decode [0xF0, 0xFE] = .ok (.beq 0xFE) [] ∧ decode [0xD0, 0xFB] = .ok (.bne 0xFB) [] ∧
    decode [0x30, 0x00] = .ok (.bmi 0x00) [] ∧ decode [0x10, 0x80] = .ok (.bpl 0x80) [] ∧
    decode [0x50, 0x01] = .ok (.bvc 0x01) [] ∧ decode [0x70, 0x7F] = .ok (.bvs 0x7F) [] := by decide

theorem test_decode_jumps : decode [0x4C, 0x0E, 0x80] = .ok (.jmp (.abj 0x800E)) [] ∧
    decode [0x6C, 0xFF, 0x02] = .ok (.jmp (.ind 0x02FF)) [] ∧ decode [0x20, 0x00, 0x90] = .ok (.jsr 0x9000) [] ∧
    decode [0x60] = .ok .rts [] := by decide

theorem test_decode_stack : decode [0x48] = .ok .pha [] ∧ decode [0x68] = .ok .pla [] ∧ decode [0x08] = .ok .php [] ∧
    decode [0x28] = .ok .plp [] ∧ decode [0x00, 0x77] = .ok .brk [0x77] ∧ decode [0x40] = .ok .rti [] := by decide

theorem test_decode_flags : decode [0x18] = .ok .clc [] ∧ decode [0x38] = .ok .sec [] ∧ decode [0x58] = .ok .cli [] ∧
    decode [0x78] = .ok .sei [] ∧ decode [0xD8] = .ok .cld [] ∧ decode [0xF8] = .ok .sed [] ∧
    decode [0xB8] = .ok .clv [] ∧ decode [0xEA] = .ok .nop [] := by decide

/-- An unknown opcode is one byte long (R68). -/
theorem test_decode_unknown : decode [0x02, 0xA9] = .ok (.unknown 0x02) [0xA9] ∧
    decode [0xFF, 0xA9] = .ok (.unknown 0xFF) [0xA9] := by decide

/-- Decoding is total on opcode bytes (R69). -/
theorem test_every_opcode_byte_decodes :
    ∀ op : Fin 256, decodesWellFormed [BitVec.ofFin op, 0x00, 0x00] = true := by decide +kernel

theorem test_decode_refuses_short_bytes : decode [] = .refused .noOpcode ∧
    decode [0xAD, 0x34] = .refused (.truncated 0xAD) := by decide

/-- "151 documented opcodes, 105 unknown" (R66, R68). -/
theorem test_table_sizes : dispatchTable.length = 151 ∧ unknownOpcodes.length = 105 := by decide +kernel

/-- No opcode stands twice in the dispatch table. -/
theorem test_table_rows_differ : (dispatchTable.map Row.opcode).Pairwise (· ≠ ·) := by decide +kernel

theorem test_encode : encode (.sta (.abs 0x0200)) = [0x8D, 0x00, 0x02] ∧ encode (.bne 0xFB) = [0xD0, 0xFB] ∧
    encode (.jmp (.ind 0x02FF)) = [0x6C, 0xFF, 0x02] := by decide

theorem test_decodeTableWord : decodeTableWord 24 0x02008D = some (.sta (.abs 0x0200)) ∧
    decodeTableWord 8 0xA9 = some (.lda (.imm 0x00)) ∧ decodeTableWord 8 0x02 = some (.unknown 0x02) := by decide

theorem test_withFetchWord_runs_first :
    seen (fun t => (t.a, t.pc)) (step (State.reset.withFetchWord 16 0x10A9)) = some (0x10, 0x0002) := by decide

/-- Every row of the table runs, the first instruction after reset. -/
theorem test_every_opcode_runs_after_reset :
    ∀ op : Fin 256, (refusalOf (step (State.reset.withFetchWord 8 op))).isNone = true := by decide +kernel

theorem test_asm : asmText 0x8000 (.lda (.izx 0x20)) = "LDA ($20,X)" ∧ asmText 0x8005 (.bne 0xFB) = "BNE $8002" ∧
    branchOffset 0x8005 0x8002 = some 0xFB ∧ branchOffset 0x8000 0x9000 = none := by decide

/-! ## Addressing modes (95_test_vectors.md 2.2) -/

/-- VA1, VA2. -/
theorem test_zero_page_indexing_wraps :
    seen apc (step { progRam [(0x10, 0x99)] [0xB5, 0xF0] with x := 0x20 }) = some (0x99, 0x80, 4) ∧
    seen (fun t => (t.x, t.cycles)) (step { progRam [(0x01, 0x07)] [0xB6, 0xFF] with y := 0x02 }) = some (0x07, 4) := by
  decide

/-- VA4, VA5, VA7. -/
theorem test_pointers_and_indexes_wrap :
    seen apc (step { progRam [(0x01, 0x42)] [0xBD, 0xFF, 0xFF] with x := 0x02 }) = some (0x42, 0x00, 5) ∧
    seen apc (step (progRam [(0x00, 0x02), (0xFF, 0x34), (0x234, 0x5C)] [0xA1, 0xFF])) = some (0x5C, 0x00, 6) ∧
    seen apc (step { progRam [(0x00, 0x02), (0xFF, 0xF8), (0x308, 0x01)] [0xB1, 0xFF] with y := 0x10 }) =
      some (0x01, 0x00, 6) := by decide

/-- VA11, VA12, W2: the page penalty of a store under both policies. -/
theorem test_page_penalty_of_stores :
    seen (fun t => (memRead t.ram 0x300, t.cycles)) (step { prog [0x9D, 0xFF, 0x02] with a := 0x0F, x := 0x01 }) =
      some (0x0F, 6) ∧
    seen (fun t => t.cycles) (step { prog [0x9D, 0xFF, 0x02] with x := 0x01, params := hwParams }) = some 5 ∧
    seen (fun t => t.cycles) (step { prog [0xFE, 0xFF, 0x02] with x := 0x01 }) = some 8 ∧
    seen (fun t => t.cycles) (step { prog [0xFE, 0xFF, 0x02] with x := 0x01, params := hwParams }) = some 7 ∧
    seen (fun t => t.cycles) (step { prog [0xBD, 0xFF, 0x02] with x := 0x01, params := hwParams }) = some 5 := by decide

/-! ## Loads, stores, transfers (2.3) -/

/-- VL1, VL2. -/
theorem test_lda : seen apc (step (prog [0xA9, 0x00])) = some (0x00, 0x02, 2) ∧
    seen apc (step (prog [0xA9, 0x80])) = some (0x80, 0x80, 2) := by decide

/-- VL3, VL4. -/
theorem test_ldx_ldy : seen (fun t => (t.x, t.p)) (step (prog [0xA2, 0xFF])) = some (0xFF, 0x80) ∧
    seen (fun t => (t.y, t.p)) (step (prog [0xA0, 0x7F])) = some (0x7F, 0x00) := by decide

/-- VL5, VL6, VL7. -/
theorem test_stores :
    seen (fun t => (memRead t.ram 0x10, t.p, t.cycles)) (step { prog [0x85, 0x10] with a := 0x3C, p := 0x82 }) =
      some (0x3C, 0x82, 3) ∧
    seen (fun t => memRead t.ram 0x200) (step { prog [0x8E, 0x00, 0x02] with x := 0xAB }) = some 0xAB ∧
    seen (fun t => memRead t.ram 0xFE) (step { prog [0x94, 0xFF] with x := 0xFF, y := 0x01 }) = some 0x01 := by decide

/-- VL8, VL9. -/
theorem test_tax_tay : seen (fun t => (t.x, t.p)) (step { prog [0xAA] with x := 0x55 }) = some (0x00, 0x02) ∧
    seen (fun t => (t.y, t.p)) (step { prog [0xA8] with a := 0xF0 }) = some (0xF0, 0x80) := by decide

/-- VL10, VL11. -/
theorem test_txa_tya : seen (fun t => (t.a, t.p)) (step { prog [0x8A] with a := 0x55 }) = some (0x00, 0x02) ∧
    seen (fun t => (t.a, t.p)) (step { prog [0x98] with y := 0x80 }) = some (0x80, 0x80) := by decide

/-- VL12, VL13. -/
theorem test_tsx_txs : seen (fun t => (t.x, t.p)) (step (prog [0xBA])) = some (0xFD, 0x80) ∧
    seen (fun t => (t.sp, t.p)) (step { prog [0x9A] with p := 0x02 }) = some (0x00, 0x02) := by decide

/-! ## Arithmetic, compare, logic (2.4) -/

/-- VR2, VR6. -/
theorem test_adc : seen (fun t => (t.a, t.p)) (step { prog [0x69, 0x50] with a := 0x50 }) = some (0xA0, 0xC0) ∧
    seen (fun t => (t.a, t.p)) (step { prog [0x69, 0xFF] with a := 0xFF, p := 0x01 }) = some (0xFF, 0x81) := by decide

/-- VR4, VR7: no decimal mode. -/
theorem test_adc_is_binary : seen (fun t => (t.a, t.p)) (step { prog [0x69, 0x80] with a := 0x80 }) = some (0x00, 0x43) ∧
    seen (fun t => (t.a, t.p)) (step { prog [0x69, 0x01] with a := 0x09, p := 0x08 }) = some (0x0A, 0x08) := by decide

/-- VR9, VR11. -/
theorem test_sbc : seen (fun t => (t.a, t.p)) (step { prog [0xE9, 0xB0] with a := 0x50, p := 0x01 }) = some (0xA0, 0xC0) ∧
    seen (fun t => (t.a, t.p)) (step (prog [0xE9, 0x00])) = some (0xFF, 0x80) := by decide

/-- VR12, VR13. -/
theorem test_sbc_borrow :
    seen (fun t => (t.a, t.p)) (step { prog [0xE9, 0x01] with a := 0x80, p := 0x01 }) = some (0x7F, 0x41) ∧
    seen (fun t => (t.a, t.p)) (step { prog [0xE9, 0x10] with a := 0x10, p := 0x01 }) = some (0x00, 0x03) := by decide

/-- VR17 with and without `CMP_WRITES_V`, VR16. -/
theorem test_cmp : seen (fun t => t.p) (step { prog [0xC9, 0x01] with a := 0x80 }) = some 0x41 ∧
    seen (fun t => t.p) (step { prog [0xC9, 0x01] with a := 0x80, params := hwParams }) = some 0x01 ∧
    seen (fun t => (t.a, t.p)) (step { prog [0xC9, 0x20] with a := 0x10 }) = some (0x10, 0x80) := by decide

/-- VR18, VR19. -/
theorem test_cpx_cpy : seen (fun t => t.p) (step { prog [0xE0, 0xFF] with x := 0x7F }) = some 0xC0 ∧
    seen (fun t => t.p) (step (prog [0xC0, 0x00])) = some 0x03 := by decide

/-- R118, R119, VR22. -/
theorem test_logic : seen (fun t => (t.a, t.p)) (step { prog [0x29, 0x0F] with a := 0xF0 }) = some (0x00, 0x02) ∧
    seen (fun t => (t.a, t.p)) (step { prog [0x09, 0x0F] with a := 0xF0 }) = some (0xFF, 0x80) ∧
    seen (fun t => (t.a, t.p)) (step { prog [0x49, 0xFF] with a := 0xFF }) = some (0x00, 0x02) := by decide

/-- VR23, VR24. -/
theorem test_bit : seen (fun t => (t.a, t.p)) (step { progRam [(0x10, 0xC0)] [0x24, 0x10] with a := 0x01 }) =
      some (0x01, 0xC2) ∧
    seen (fun t => t.p) (step { progRam [(0x10, 0x7F)] [0x24, 0x10] with a := 0x40 }) = some 0x40 := by decide

/-- VR25, VR26. -/
theorem test_inc_dec :
    seen (fun t => (memRead t.ram 0x10, t.p, t.cycles)) (step (progRam [(0x10, 0xFF)] [0xE6, 0x10])) =
      some (0x00, 0x02, 5) ∧
    seen (fun t => (memRead t.ram 0x10, t.p)) (step (prog [0xC6, 0x10])) = some (0xFF, 0x80) := by decide

/-- VR27, VR28. -/
theorem test_inx_iny : seen (fun t => (t.x, t.p)) (step { prog [0xE8] with x := 0x7F }) = some (0x80, 0x80) ∧
    seen (fun t => (t.y, t.p)) (step { prog [0xC8] with y := 0xFF }) = some (0x00, 0x02) := by decide

/-- VR29, VR30. -/
theorem test_dex_dey : seen (fun t => (t.x, t.p)) (step (prog [0xCA])) = some (0xFF, 0x80) ∧
    seen (fun t => (t.y, t.p)) (step { prog [0x88] with y := 0x01 }) = some (0x00, 0x02) := by decide

/-- VR31. -/
theorem test_inx_leaves_carry_and_overflow :
    seen (fun t => t.p) (step { prog [0xE8] with x := 0x10, p := 0x41 }) = some 0x41 := by decide

/-! ## Shifts and rotates (2.5) -/

/-- VS1, VS2. -/
theorem test_asl : seen (fun t => (t.a, t.p)) (step { prog [0x0A] with a := 0x80 }) = some (0x00, 0x03) ∧
    seen (fun t => (t.a, t.p)) (step { prog [0x0A] with a := 0x40 }) = some (0x80, 0x80) := by decide

/-- VS3, VS4. -/
theorem test_lsr : seen (fun t => (t.a, t.p)) (step { prog [0x4A] with a := 0x01 }) = some (0x00, 0x03) ∧
    seen (fun t => (memRead t.ram 0x20, t.p, t.cycles)) (step (progRam [(0x20, 0xFF)] [0x46, 0x20])) =
      some (0x7F, 0x01, 5) := by decide

/-- VS6, VS9. -/
theorem test_rol : seen (fun t => (t.a, t.p)) (step { prog [0x2A] with p := 0x01 }) = some (0x01, 0x00) ∧
    seen (fun t => (memRead t.ram 0x300, t.p, t.cycles))
      (step { progRam [(0x300, 0x81)] [0x2E, 0x00, 0x03] with p := 0x01 }) = some (0x03, 0x01, 6) := by decide

/-- VS7, VS8. -/
theorem test_ror : seen (fun t => (t.a, t.p)) (step { prog [0x6A] with a := 0x01 }) = some (0x00, 0x03) ∧
    seen (fun t => (t.a, t.p)) (step { prog [0x6A] with p := 0x01 }) = some (0x80, 0x80) := by decide

/-! ## Branches and jumps (2.6) -/

/-- VB1, VB2. -/
theorem test_bcc_bcs : seen (fun t => (t.pc, t.cycles)) (step (prog [0x90, 0x10])) = some (0x8012, 3) ∧
    seen (fun t => (t.pc, t.cycles)) (step (prog [0xB0, 0x10])) = some (0x8002, 2) := by decide

/-- VB3, VB6. -/
theorem test_bpl_bmi : seen (fun t => (t.pc, t.cycles)) (step (prog [0x10, 0x80])) = some (0x7F82, 4) ∧
    seen (fun t => (t.pc, t.cycles)) (step { prog [0x30, 0x00] with p := 0x80 }) = some (0x8002, 3) := by decide

/-- VB5, VB4. -/
theorem test_bvc_bvs : seen (fun t => (t.pc, t.cycles)) (step { prog [0x50, 0x10] with p := 0x40 }) = some (0x8002, 2) ∧
    seen (fun t => (t.pc, t.cycles)) (step { prog [0x70, 0x7F] with p := 0x40 }) = some (0x8081, 3) := by decide

/-- VB7 (with the branch at 0x8000), VB8. -/
theorem test_bne_beq : seen (fun t => (t.pc, t.cycles)) (step (prog [0xD0, 0x05])) = some (0x8007, 3) ∧
    seen (fun t => (t.pc, t.cycles)) (step { prog [0xF0, 0xFE] with p := 0x02 }) = some (0x8000, 3) := by decide

/-- VB9: the target wraps; the branch stands at the top of the address space. -/
theorem test_branch_target_wraps :
    seen (fun t => (t.pc, t.cycles))
      (step { prog [] with pc := 0xFFF0, p := 0x02, mapper := { Mapper.unlisted with prg := [(0x7FF0, 0xF0), (0x7FF1, 0x20)] } }) =
      some (0x0012, 4) := by decide

/-- VB10, VA9: the page-wrap of JMP indirect. -/
theorem test_jmp : seen (fun t => (t.pc, t.cycles)) (step (prog [0x4C, 0x00, 0xC0])) = some (0xC000, 3) ∧
    seen (fun t => (t.pc, t.cycles)) (step (progRam [(0x200, 0x90), (0x300, 0x50)] [0x6C, 0xFF, 0x02])) =
      some (0x9000, 5) := by decide

/-- VB13 (with the JSR at 0x8000): the pushes wrap within the stack page. -/
theorem test_jsr :
    seen (fun t => (memRead t.ram 0x100, memRead t.ram 0x1FF, t.sp, t.pc, t.cycles))
      (step { prog [0x20, 0x00, 0x90] with sp := 0x00 }) = some (0x80, 0x02, 0xFE, 0x9000, 6) := by decide

/-- VB14. -/
theorem test_rts : seen (fun t => (t.pc, t.sp, t.cycles)) (step (progRam [(0x1FE, 0xFF), (0x1FF, 0xFF)] [0x60])) =
    some (0x0000, 0xFF, 6) := by decide

/-! ## Stack, flags, interrupts (2.7, 2.8) -/

/-- VK1, VK2. -/
theorem test_pha_pla : seen (fun t => (memRead t.ram 0x100, t.sp)) (step { prog [0x48] with a := 0x42, sp := 0x00 }) =
      some (0x42, 0xFF) ∧
    seen (fun t => (t.a, t.p, t.sp)) (step { prog [0x68] with a := 0x33, sp := 0xFF }) = some (0x00, 0x02, 0x00) := by
  decide

/-- VK3, W5, VK4. -/
theorem test_php_plp : seen (fun t => (memRead t.ram 0x1FD, t.p)) (step (prog [0x08])) = some (0x30, 0x00) ∧
    seen (fun t => memRead t.ram 0x1FD) (step { prog [0x08] with p := 0xC3 }) = some 0xF3 ∧
    seen (fun t => (t.p, t.sp)) (step (progRam [(0x1FE, 0xFF)] [0x28])) = some (0xCF, 0xFE) := by decide

/-- The state of VK5: BRK at 0x8000, the vector 0x9000. -/
def brkStart : State :=
  { prog [] with p := 0x01, mapper := { Mapper.unlisted with prg := [(0x7FFF, 0x90)] } }

/-- VK5. -/
theorem test_brk :
    seen (fun t => ([memRead t.ram 0x1FD, memRead t.ram 0x1FC, memRead t.ram 0x1FB, t.sp, t.p], t.pc, t.cycles))
      (step brkStart) = some ([0x80, 0x02, 0x31, 0xFA, 0x05], 0x9000, 7) := by decide

/-- VK7. -/
theorem test_brk_is_not_masked :
    seen (fun t => (memRead t.ram 0x1FB, t.p, t.pc)) (step { brkStart with p := 0x04 }) = some (0x34, 0x04, 0x9000) := by
  decide

/-- VK6, VI4. -/
theorem test_rti :
    seen (fun t => (t.p, t.pc, t.sp, t.cycles))
      (step { progRam [(0x1FB, 0x31), (0x1FC, 0x02), (0x1FD, 0x80)] [0x40] with sp := 0xFA }) =
      some (0x01, 0x8002, 0xFD, 6) ∧
    seen (fun t => (t.p, t.pc))
      (step { progRam [(0x1FB, 0xA5), (0x1FC, 0x23), (0x1FD, 0x81)] [0x40] with sp := 0xFA }) =
      some (0x85, 0x8123) := by decide

/-- VK8. -/
theorem test_clc_sec : seen (fun t => (t.p, t.cycles)) (step { prog [0x18] with p := 0x01 }) = some (0x00, 2) ∧
    seen (fun t => (t.p, t.cycles)) (step (prog [0x38])) = some (0x01, 2) := by decide

/-- VK9. -/
theorem test_cli_sei : seen (fun t => t.p) (step { prog [0x58] with p := 0x04 }) = some 0x00 ∧
    seen (fun t => t.p) (step (prog [0x78])) = some 0x04 := by decide

/-- VK10. -/
theorem test_cld_sed : seen (fun t => t.p) (step { prog [0xD8] with p := 0x08 }) = some 0x00 ∧
    seen (fun t => t.p) (step (prog [0xF8])) = some 0x08 := by decide

/-- VK11, VK12. -/
theorem test_clv_nop : seen (fun t => t.p) (step { prog [0xB8] with p := 0x40 }) = some 0x00 ∧
    seen (fun t => (t.p, t.pc, t.cycles)) (step { prog [0xEA] with p := 0xCF }) = some (0xCF, 0x8001, 2) := by decide

/-- VD1, VD2: one byte, nothing changed but PC; the cycles are `ILLEGAL_CYCLES`. -/
theorem test_unknown_is_a_no_op :
    seen (fun t => { t with cycles := 0 }) (step (prog [0xFF, 0xA9])) = some { prog [0xFF, 0xA9] with pc := 0x8001, cycles := 0 } ∧
    seen (fun t => t.pc) (step (prog [0x02])) = some 0x8001 := by decide +kernel

/-- The cycles of an unknown opcode are the open value, whatever it is (R77). -/
theorem test_unknown_cycles_are_open : baseCycles (.unknown 0x02) = Config.illegalCycles 0x02 := by
  have noRow : lookupRow 0x02 = none := Option.isNone_iff_eq_none.mp (by decide +kernel)
  show baseCyclesOf 0x02 = _
  rw [baseCyclesOf, noRow]

/-- VD3: the fetch wraps. -/
theorem test_fetch_wraps :
    seen (fun t => (t.pc, t.cycles))
      (step { prog [] with pc := 0xFFFF, mapper := { Mapper.unlisted with prg := [(0x7FFF, 0xEA)] } }) =
      some (0x0000, 2) := by decide

/-- The state of VI2 and VI3: both vectors placed. -/
def interruptStart : State :=
  { State.reset with pc := 0x8123, p := 0x81, mapper := { Mapper.unlisted with prg := [(0x7FFB, 0xD0), (0x7FFF, 0xC0)] } }

/-- VI2, VI1. -/
theorem test_irq :
    seen (fun t => ([memRead t.ram 0x1FD, memRead t.ram 0x1FC, memRead t.ram 0x1FB, t.sp, t.p], t.pc, t.cycles))
      (irqAction interruptStart) = some ([0x81, 0x23, 0xA5, 0xFA, 0x85], 0xC000, 7) ∧
    seen (fun t => (t.ram, t.sp, t.p, t.pc, t.cycles)) (irqAction { interruptStart with p := 0x04 }) =
      some ([], 0xFD, 0x04, 0x8123, 0) := by decide

/-- VI3. -/
theorem test_nmi :
    seen (fun t => (memRead t.ram 0x1FB, t.sp, t.p, t.pc, t.cycles)) (nmiAction { interruptStart with p := 0x04 }) =
      some (0x24, 0xFA, 0x04, 0xD000, 8) := by decide

/-- W1. -/
theorem test_reset_loads_the_vector :
    seen (fun t => ([t.a, t.x, t.y, t.sp, t.p], t.pc, t.cycles))
      (resetAction { State.reset with
        a := 1, x := 2, y := 3, sp := 4, p := 0xFF
        mapper := { Mapper.unlisted with prg := [(0x7FFC, 0x34), (0x7FFD, 0x12)] } }) =
      some ([0, 0, 0, 0xFD, 0], 0x1234, 8) := by decide

/-- State.reset is what the reset action leaves of the power-on state with nothing listed. -/
theorem test_state_reset_is_reset :
    resetAction (State.powerOn Params.default PowerOn.unlisted Mapper.unlisted) = .next State.reset := by rfl

/-- VI7. -/
theorem test_step_before_reset_faults :
    faultOf (step (State.powerOn Params.default PowerOn.unlisted Mapper.unlisted)) = some (.unset .pc) := by decide

/-- R195: `JMP *` at PC after reset, and the model's answer before the first reset (log entry 19). -/
theorem test_halt_idiom : atHaltIdiom (prog [0x4C, 0x00, 0x80]) = true ∧ atHaltIdiom (prog [0x4C, 0x03, 0x80]) = false ∧
    atHaltIdiom (State.powerOn Params.default { PowerOn.unlisted with ram := [(0, 0x4C)] } Mapper.unlisted) = false := by
  decide

/-! ## The Bus and the PPU ports (2.1, 2.9) -/

/-- VD4, VD5. -/
theorem test_bus_mirrors : seen (fun t => memRead t.ram 0x001) (step { prog [0x8D, 0x01, 0x08] with a := 0x5A }) = some 0x5A ∧
    seen apc (step { prog [0xAD, 0x16, 0x40] with a := 0x11 }) = some (0x00, 0x02, 4) := by decide

/-- VD6, VD8. -/
theorem test_bus_faults : step { prog [0x8D, 0x00, 0x80] with a := 0x77 } =
      .next { prog [0x8D, 0x00, 0x80] with a := 0x77, pc := 0x8003, cycles := 4 } ∧
    faultOf (step (prog [0xAD, 0x08, 0x20])) = some (.ppuUndefinedPort .ctrl .read) := ⟨by rfl, by decide⟩

/-- W6. -/
theorem test_address_latch :
    seen (fun t => (t.ppu.vaddr, t.ppu.addrHiNext)) (andThen (busWrite 0x2006 0x21 State.reset) (busWrite 0x2006 0x34)) =
      some (0x2134, true) ∧
    seen (fun t => (t.ppu.vaddr, t.ppu.addrHiNext))
      (andThen (busWrite 0x2006 0x21 State.reset) fun s =>
        andThen (busRead 0x2002 s) fun r => busWrite 0x2006 0x34 r.2) = some (0x3400, false) := by decide

/-- VP2, VP3. -/
theorem test_port_writes :
    seen (fun t => (memRead t.ppu.vram 0, t.ppu.vaddr))
      (busWrite 0x2007 0x11 (withPpu fun u => { u with ctrl := 0x04, vaddr := 0x2000 })) = some (0x11, 0x2020) ∧
    seen (fun t => (memRead t.ppu.oam 0xFF, t.ppu.oamAddr)) (busWrite 0x2004 0x12 (withPpu fun u => { u with oamAddr := 0xFF })) =
      some (0x12, 0x00) := by decide

/-- VP7 first write, VP9, VP10. -/
theorem test_vram_address :
    seen (fun t => t.ppu.vaddr) (busWrite 0x2006 0x7F State.reset) = some 0x3F00 ∧
    seen (fun t => t.ppu.vaddr) (busWrite 0x2007 0x00 { withPpu (fun u => { u with vaddr := 0x3FFF }) with params := hwParams }) =
      some 0x0000 ∧
    seen (fun t => (memRead t.ppu.palette 0x00, t.ppu.vaddr)) (busWrite 0x2007 0x2C (withPpu fun u => { u with vaddr := 0x3F10 })) =
      some (0x2C, 0x3F11) := by decide

/-- VP11, VP12 first read, VP13. -/
theorem test_read_buffer :
    (got (busRead 0x2007 (withPpu fun u => { u with vaddr := 0x3F01, palette := [(1, 0x2A)], readBuf := 0x99 }))).map
      (fun r => (r.1, r.2.ppu.readBuf, r.2.ppu.vaddr)) = some (0x2A, 0x99, 0x3F02) ∧
    (got (busRead 0x2007 (withPpu fun u => { u with vaddr := 0x2000, vram := [(0, 0xAA), (1, 0xBB)] }))).map
      (fun r => (r.1, r.2.ppu.readBuf, r.2.ppu.vaddr)) = some (0x00, 0xAA, 0x2001) ∧
    (got (busRead 0x2007 { withPpu (fun u => { u with vaddr := 0x0010, readBuf := 0x01 }) with
        mapper := { Mapper.unlisted with chr := [(0x10, 0x5E)] } })).map
      (fun r => (r.1, r.2.ppu.readBuf, r.2.ppu.vaddr)) = some (0x01, 0x5E, 0x0011) := by decide

/-- VP15, VP16. -/
theorem test_unrouted_addresses :
    faultOf (busRead 0x2007 (withPpu fun u => { u with vaddr := 0x3000 })) = some (.ppuUnrouted 0x3000) ∧
    seen (fun t => memRead t.ppu.palette 0x05)
      (busWrite 0x2007 0x01 { withPpu (fun u => { u with vaddr := 0x3F25 }) with params := hwParams }) = some 0x01 := by
  decide

/-- VP18, VP19. -/
theorem test_port_instructions :
    seen (fun t => (t.p, t.ppu.addrHiNext))
      (step { prog [0x2C, 0x02, 0x20] with ppu := { State.reset.ppu with status := 0x80, addrHiNext := false } }) =
      some (0x82, true) ∧
    seen (fun t => (memRead t.ppu.vram 1, t.ppu.readBuf, t.ppu.vaddr, t.p, t.cycles))
      (step { prog [0xEE, 0x07, 0x20] with
        ppu := { State.reset.ppu with vaddr := 0x2000, readBuf := 0x11, vram := [(0, 0x22), (1, 0x33)] } }) =
      some (0x12, 0x22, 0x2002, 0x00, 6) := by decide

/-- W7, VM2, VM3, VM5, VM6. -/
theorem test_nametable_mirroring : ntIndex .vertical 0x2C00 = 0x400 ∧ ntIndex .horizontal 0x2400 = 0x000 ∧
    ntIndex .horizontal 0x2800 = 0x400 ∧ ntIndex .horizontal 0x27FF = 0x3FF ∧ ntIndex .horizontal 0x2BFF = 0x7FF ∧
    ntIndex .vertical 0x27FF = 0x7FF := by decide

/-! ## Rendering (2.10), pixel by pixel -/

/-- The common start of 2.10, with some memories changed. -/
def picture (chr vram palette oam : Memory) : State :=
  { State.reset with
    mapper := { Mapper.unlisted with chr := chr }
    ppu := { State.reset.ppu with vram := vram, palette := palette, oam := oam } }

/-- CHR of the common start: tile 1 has its first pixel lit. -/
def chrTile1 : Memory := [(0x10, 0x80)]

/-- The palette of the common start. -/
def paletteStart : Memory := [(0x00, 0x0F), (0x01, 0x30), (0x11, 0x16)]

/-- VG2. -/
theorem test_bg_pixel : bgColour (picture chrTile1 [(0, 1)] paletteStart []) 0 0 0 = .next (Config.sysPalette 0x30) ∧
    bgColour (picture chrTile1 [(0, 1)] paletteStart []) 0 1 0 = .next (Config.sysPalette 0x0F) := ⟨by rfl, by rfl⟩

/-- VG2, VG4, VG5, VG14, by the picture as the claims state it. -/
theorem test_bg_pixel_at :
    bgPixelAt (picture chrTile1 [(0, 1)] paletteStart []) 0 0 = Config.sysPalette 0x30 ∧
    bgPixelAt (picture chrTile1 [(0x002, 1), (0x3C0, 0xE4)] [(0x05, 0x21)] []) 16 0 = Config.sysPalette 0x21 ∧
    bgPixelAt (picture chrTile1 [(0x040, 1), (0x3C0, 0xE4)] [(0x09, 0x22)] []) 0 16 = Config.sysPalette 0x22 ∧
    bgPixelAt (picture chrTile1 [(0, 1)] [(0x01, 0xF0)] []) 0 0 = Config.sysPalette 0x30 :=
  ⟨by rfl, by rfl, by rfl, by rfl⟩

/-- VG4, VG5: the attribute quadrants. -/
theorem test_attribute_select : attrSelect (picture [] [(0x3C0, 0xE4)] [] []).ppu 2 0 = 1 ∧
    attrSelect (picture [] [(0x3C0, 0xE4)] [] []).ppu 0 2 = 2 ∧
    attrSelect (picture [] [(0x3C0, 0xE4)] [] []).ppu 3 3 = 3 := by decide

/-- VG6, VG7: bit 1 comes from the second plane. -/
theorem test_tile_pixel : got (tilePixel 0 1 0 0 { Mapper.unlisted with chr := [(0x10, 0x80), (0x18, 0x80)] }) = some 3 ∧
    got (tilePixel 0 1 0 0 { Mapper.unlisted with chr := [(0x18, 0x80)] }) = some 2 := by decide

/-- VG8, VG9, VG10: where the lit pixel of sprite 0 goes. -/
theorem test_sprite_pixel :
    spritePixelAt (picture chrTile1 [] paletteStart [(0, 0x10), (1, 0x01), (3, 0x20)]) 0 32 16 =
      some (Config.sysPalette 0x16) ∧
    spritePixelAt (picture chrTile1 [] paletteStart [(0, 0x10), (1, 0x01), (2, 0x40), (3, 0x20)]) 0 39 16 =
      some (Config.sysPalette 0x16) ∧
    spritePixelAt (picture chrTile1 [] paletteStart [(0, 0x10), (1, 0x01), (2, 0x80), (3, 0x20)]) 0 32 23 =
      some (Config.sysPalette 0x16) ∧
    spritePixelAt (picture chrTile1 [] paletteStart [(0, 0x10), (1, 0x01), (2, 0x40), (3, 0x20)]) 0 32 16 = none :=
  ⟨by rfl, by rfl, by rfl, by rfl⟩

/-! ## Witnesses: concrete states and operands that meet the hypotheses of the obligations -/

theorem witness_DecodeOfEncodeIsTheInstruction : wellFormed (.jmp (.ind 0xFFFF)) = true ∧
    wellFormed (.unknown 0xFF) = true ∧ wellFormed (.lda (.izy 0xFF)) = true := by decide

theorem witness_DecodedBytesAreTheEncoding :
    decode [0x9D, 0xFF, 0x20, 0xEA] = .ok (.sta (.abx 0x20FF)) [0xEA] := by decide

/-- LDA $1234 whose bytes wrap from 0xFFFF to 0x0000. -/
def wrappedProgram : State :=
  { State.reset with
    pc := 0xFFFF, ram := [(0x0000, 0x34), (0x0001, 0x12)]
    mapper := { Mapper.unlisted with prg := [(0x7FFF, 0xAD)] } }

theorem witness_StepRunsTheDecodedInstruction :
    wellFormed (.lda (.abs 0x1234)) = true ∧ wrappedProgram.cpuSet = true ∧
      ∀ (k : Nat) (b : Byte), (encode (.lda (.abs 0x1234)))[k]? = some b →
        peek (wrappedProgram.pc + BitVec.ofNat 16 k) wrappedProgram = some b := by
  refine ⟨by decide, rfl, ?_⟩
  have bytes : encode (.lda (.abs 0x1234)) = [0xAD, 0x34, 0x12] := by decide
  intro k b h
  rw [bytes] at h
  match k with
  | 0 => cases h; decide
  | 1 => cases h; decide
  | 2 => cases h; decide
  | n + 3 => simp at h

theorem witness_ActionsBeforeResetFault :
    (State.powerOn Params.default PowerOn.unlisted Mapper.unlisted).cpuSet = false := rfl

/-- The start of the invariant's witnesses: LDA #$10 at 0x8000. -/
def lda10 : State := prog [0xA9, 0x10]

theorem witness_StepKeepsTheInvariant :
    Inv lda10 ∧ step lda10 = .next { lda10 with a := 0x10, pc := 0x8002, cycles := 2 } :=
  ⟨by decide, next_of_goesTo (by decide)⟩

theorem witness_HostRunsKeepTheInvariant :
    Inv interruptStart ∧ ∃ t rs, performAll [.irq, .step, .setStatus 0x80, .nmi, .reset] interruptStart = .next (t, rs) :=
  ⟨by decide, _, _, by rfl⟩

theorem witness_NoDecodedInstructionIsRefused : wellFormed (.ror (.abx 0xFFFF)) = true := by decide

/-- A cartridge that rejects its last PRG offset and its last CHR offset. -/
def rejecting : Mapper :=
  { Mapper.unlisted with prgRejects := [⟨0x7FFF, 0x7FFF⟩], chrRejects := [⟨0x1FFF, 0x1FFF⟩] }

theorem witness_StepsFaultOnlyOnFatalAccesses_offset :
    ({ State.reset with pc := 0xFFFF, mapper := rejecting } : State).cpuSet = true ∧
      ({ State.reset with pc := 0xFFFF, mapper := rejecting } : State).ppu.vaddr.toNat ≤ 0x3FFF ∧
      step { State.reset with pc := 0xFFFF, mapper := rejecting } = .fault (.mapperOffset 0x7FFF) :=
  ⟨rfl, by decide, by rfl⟩

/-- LDA $2007 at 0x8000 with the VRAM address at the given place. -/
def readsData (v : Word) : State := { prog [0xAD, 0x07, 0x20] with ppu := { State.reset.ppu with vaddr := v } }

theorem witness_StepsFaultOnlyOnFatalAccesses_unrouted :
    (readsData 0x3FFF).cpuSet = true ∧ (readsData 0x3FFF).ppu.vaddr.toNat ≤ 0x3FFF ∧
      step (readsData 0x3FFF) = .fault (.ppuUnrouted 0x3FFF) ∧
      step (readsData 0x3000) = .fault (.ppuUnrouted 0x3000) := ⟨rfl, by decide, by rfl, by rfl⟩

theorem witness_StepsFaultOnlyOnFatalAccesses_port :
    (prog [0xAD, 0x06, 0x20]).cpuSet = true ∧ (prog [0xAD, 0x06, 0x20]).ppu.vaddr.toNat ≤ 0x3FFF ∧
      step (prog [0xAD, 0x06, 0x20]) = .fault (.ppuUndefinedPort .addr .read) ∧
      step (prog [0x8D, 0x02, 0x20]) = .fault (.ppuUndefinedPort .status .write) := ⟨rfl, by decide, by rfl, by rfl⟩

theorem witness_CartridgeFixedAndStatusOnlyHostWritten :
    HostAction.step.perform lda10 = .next ({ lda10 with a := 0x10, pc := 0x8002, cycles := 2 }, .cycles 2) ∧
      ∀ v, HostAction.step ≠ .setStatus v :=
  ⟨next_of_goesTo (by decide), nofun⟩

theorem witness_FlagsOutsideTheTableAreUnchanged :
    exec (.cmp (.imm 0x01)) { State.reset with a := 0x80, p := 0xFF, params := hwParams } =
        .next { State.reset with a := 0x80, p := 0x7D, params := hwParams, cycles := 2 } ∧
      Flag.v ∉ writtenFlags hwParams (.cmp (.imm 0x01)) := ⟨by rfl, by decide⟩

theorem witness_RegistersOutsideTheRuleAreUnchanged :
    exec .inx { State.reset with a := 1, y := 2 } = .next { State.reset with a := 1, x := 1, y := 2, cycles := 2 } ∧
      CpuReg.a ∉ writtenRegs .inx ∧ CpuReg.y ∉ writtenRegs .inx ∧ CpuReg.sp ∉ writtenRegs .inx ∧
      CpuReg.x ∉ writtenRegs .iny ∧ transfersControl .inx = false := ⟨by rfl, by decide⟩

theorem witness_RamOutsideTheStoreIsUnchanged_store :
    Memory.wf 0x800 State.reset.ram = true ∧
      exec (.sta (.abs 0x0FFF)) { State.reset with a := 7 } =
        .next { State.reset with a := 7, ram := [(0x7FF, 7)], cycles := 4 } ∧
      (∀ ea, storeAddress (.sta (.abs 0x0FFF)) { State.reset with a := 7 } = some ea → busTarget ea ≠ .ram 0x7FE) ∧
      0x7FE ∉ stackStores (.sta (.abs 0x0FFF)) { State.reset with a := 7 } :=
  ⟨rfl, by rfl, fun _ h => (by cases h; decide), by decide⟩

theorem witness_RamOutsideTheStoreIsUnchanged_push :
    Memory.wf 0x800 State.reset.ram = true ∧
      exec .pha { State.reset with a := 7 } =
        .next { State.reset with a := 7, ram := [(0x1FD, 7)], sp := 0xFC, cycles := 3 } ∧
      (∀ ea, storeAddress .pha { State.reset with a := 7 } = some ea → busTarget ea ≠ .ram 0x1FC) ∧
      0x1FC ∉ stackStores .pha { State.reset with a := 7 } := ⟨rfl, by rfl, fun _ h => (by cases h), by decide⟩

theorem witness_PpuStorageChangesOnlyByStores :
    exec (.lda (.abs 0x3FFA)) State.reset = .next { State.reset with p := 0x02, cycles := 4 } ∧
      (∀ ea r, storeAddress (.lda (.abs 0x3FFA)) State.reset = some ea → busTarget ea ≠ .ppu r) ∧
      ∀ ea r, storeAddress (.sta (.abs 0x1FFF)) State.reset = some ea → busTarget ea ≠ .ppu r :=
  ⟨by rfl, fun _ _ h => (by cases h), fun _ _ h => (by cases h; nofun)⟩

theorem witness_RamIsMirroredFourTimes :
    (0x07FF : Word).toNat < 0x800 ∧ (3 : Nat) < 4 ∧ (0 : Nat) < 4 ∧ Memory.wf 0x800 State.reset.ram = true ∧
      (0x1FFE : Word).toNat < 0x2000 ∧ (0x1FFE : Word).toNat % 0x800 ≠ (0x07FF : Word).toNat := by decide

theorem witness_UnmappedRangeReadsZero :
    0x4000 ≤ (0x4000 : Word).toNat ∧ (0x4000 : Word).toNat ≤ 0x7FFF ∧
      0x4000 ≤ (0x7FFF : Word).toNat ∧ (0x7FFF : Word).toNat ≤ 0x7FFF := by decide

theorem witness_PrgWindowIsReadOnly :
    0x8000 ≤ (0x8000 : Word).toNat ∧ prgAt rejecting ((0x8000 : Word).toNat - 0x8000) = some 0x00 ∧
      0x8000 ≤ (0xFFFF : Word).toNat ∧ prgAt rejecting ((0xFFFF : Word).toNat - 0x8000) = none := by decide

theorem witness_PpuWindowRepeatsEveryEightBytes :
    0x2000 ≤ (0x2000 : Word).toNat ∧ (0x2000 : Word).toNat < 0x4000 ∧
      0x2000 ≤ (0x3FFF : Word).toNat ∧ (0x3FFF : Word).toNat < 0x4000 := by decide

theorem witness_BusReadsChangeOnlyPpuLatches :
    busRead 0x1FFF State.reset = .next (0x00, State.reset) ∧ (0x1FFF : Word).toNat < 0x2000 ∧
      busRead 0x4000 State.reset = .next (0x00, State.reset) ∧ 0x4000 ≤ (0x4000 : Word).toNat ∧
      busRead 0x3FFF State.reset = .next (0x00, withPpu fun u => { u with vaddr := 0x0001 }) :=
  ⟨by rfl, by decide, by rfl, by decide, next_of_goesTo (by decide)⟩

theorem witness_StackDisciplinePushesDown :
    Memory.wf 0x800 ({ State.reset with sp := 0x00, ram := [(0x100, 0x55)] } : State).ram = true ∧
      (0x1FF : Nat) ≠ 0x100 + (0x00 : Byte).toNat := by decide

theorem witness_StatusReadResetsTheAddressLatch : PortAddress 2 0x2002 ∧ PortAddress 2 0x3FFA := by
  unfold PortAddress; decide

theorem witness_ControlMaskAndOamAddressStoreTheByte :
    PortAddress 0 0x2000 ∧ PortAddress 0 0x3FF8 ∧ PortAddress 1 0x2001 ∧ PortAddress 3 0x3FFB := by
  unfold PortAddress; decide

theorem witness_OamDataWriteStoresAndAdvances :
    PortAddress 4 0x2004 ∧ Memory.wf 0x100 (withPpu fun u => { u with oamAddr := 0xFF, oam := [(0xFF, 1)] }).ppu.oam = true ∧
      (0x00 : Nat) ≠ (withPpu fun u => { u with oamAddr := 0xFF, oam := [(0xFF, 1)] }).ppu.oamAddr.toNat := by
  unfold PortAddress; decide

theorem witness_ScrollWritesAlternate :
    PortAddress 5 0x2005 ∧ State.reset.ppu.scrollSecond = false ∧
      (withPpu fun u => { u with scrollSecond := true }).ppu.scrollSecond = true ∧
      (PortAddress 6 0x3FFE ∧ busWrite 0x3FFE 0x00 State.reset = .next (withPpu fun u => { u with addrHiNext := false })) ∧
      PortAddress 2 0x2002 ∧ busRead 0x2002 State.reset = .next (0x00, State.reset) := by
  unfold PortAddress
  exact ⟨by decide, rfl, rfl, ⟨by decide, next_of_goesTo (by decide)⟩, by decide,
    next_of_goesTo (by decide)⟩

theorem witness_AddressWritesFillTheHalvesInTurn :
    PortAddress 6 0x2006 ∧ (withPpu fun u => { u with vaddr := 0x3FFF }).ppu.vaddr.toNat ≤ 0x3FFF ∧
      (withPpu fun u => { u with vaddr := 0x3FFF }).ppu.addrHiNext = true ∧
      (withPpu fun u => { u with vaddr := 0x0000, addrHiNext := false }).ppu.vaddr.toNat ≤ 0x3FFF ∧
      (withPpu fun u => { u with vaddr := 0x0000, addrHiNext := false }).ppu.addrHiNext = false := by
  unfold PortAddress; decide

theorem witness_VramAddressAdvancesModulo14Bits :
    (0x3FFF : Word).toNat ≤ 0x3FFF ∧ ((32 : Nat) = 1 ∨ (32 : Nat) = 32) ∧ ((1 : Nat) = 1 ∨ (1 : Nat) = 32) := by decide

/-- The VRAM address at the given place, under the policies of `hwParams`. -/
def hwAt (v : Word) : State := { withPpu (fun u => { u with vaddr := v }) with params := hwParams }

/-- The VRAM address at the given place, under the default policies and the rejecting cartridge. -/
def faultAt (v : Word) : State := { withPpu (fun u => { u with vaddr := v }) with mapper := rejecting }

theorem witness_DataReadIsOneReadBehind_routed :
    PortAddress 7 0x3FFF ∧ (faultAt 0x1FFE).ppu.vaddr.toNat < 0x2000 ∧ chrAt rejecting 0x1FFE = some 0x00 ∧
      (faultAt 0x1FFF).ppu.vaddr.toNat < 0x2000 ∧ chrAt rejecting 0x1FFF = none ∧
      (0x2000 ≤ (faultAt 0x2000).ppu.vaddr.toNat ∧ (faultAt 0x2FFF).ppu.vaddr.toNat < 0x3000) ∧
      (0x2000 ≤ (hwAt 0x3EFF).ppu.vaddr.toNat ∧ (hwAt 0x3EFF).ppu.vaddr.toNat < 0x3F00 ∧
        (hwAt 0x3EFF).params.unrouted = .hwMirror) ∧
      0x3F00 ≤ (faultAt 0x3F1F).ppu.vaddr.toNat ∧ (faultAt 0x3F1F).ppu.vaddr.toNat < 0x3F20 := by
  unfold PortAddress; decide

theorem witness_DataReadIsOneReadBehind_unrouted :
    PortAddress 7 0x2007 ∧
      (0x3F20 ≤ (hwAt 0x3F20).ppu.vaddr.toNat ∧ (hwAt 0x3FFF).ppu.vaddr.toNat < 0x4000 ∧
        (hwAt 0x3FFF).params.unrouted = .hwMirror) ∧
      (0x3000 ≤ (faultAt 0x3000).ppu.vaddr.toNat ∧ (faultAt 0x3EFF).ppu.vaddr.toNat < 0x3F00 ∧
        (faultAt 0x3000).params.unrouted = .fault) ∧
      0x3F20 ≤ (faultAt 0x3F20).ppu.vaddr.toNat ∧ (faultAt 0x3FFF).ppu.vaddr.toNat < 0x4000 := by
  unfold PortAddress; decide

theorem witness_DataWriteStoresAndAdvances :
    PortAddress 7 0x3FFF ∧ (faultAt 0x1FFF).ppu.vaddr.toNat < 0x2000 ∧
      (0x2000 ≤ (faultAt 0x2FFF).ppu.vaddr.toNat ∧ (faultAt 0x2FFF).ppu.vaddr.toNat < 0x3000) ∧
      (0x2000 ≤ (hwAt 0x3000).ppu.vaddr.toNat ∧ (hwAt 0x3000).ppu.vaddr.toNat < 0x3F00 ∧
        (hwAt 0x3000).params.unrouted = .hwMirror) ∧
      (0x3F00 ≤ (faultAt 0x3F00).ppu.vaddr.toNat ∧ (faultAt 0x3F00).ppu.vaddr.toNat < 0x3F20) ∧
      (0x3F20 ≤ (hwAt 0x3F20).ppu.vaddr.toNat ∧ (hwAt 0x3F20).ppu.vaddr.toNat < 0x4000) ∧
      0x3F20 ≤ (faultAt 0x3F20).ppu.vaddr.toNat ∧ (faultAt 0x3F20).params.unrouted = .fault := by
  unfold PortAddress; decide

theorem witness_UndefinedPortsFollowThePolicy :
    (PortAddress 0 0x2000 ∧ PortAddress 1 0x3FF9 ∧ PortAddress 3 0x2003 ∧ PortAddress 5 0x2005 ∧ PortAddress 6 0x3FFE ∧
      PortAddress 2 0x3FFA) ∧
      State.reset.params.undefinedPort = .fault ∧ (hwAt 0).params.undefinedPort = .hw := by
  unfold PortAddress; decide

theorem witness_NametablesAndPaletteAreMirrored :
    (0x2000 ≤ (0x2000 : Word).toNat ∧ (0x2000 : Word).toNat < 0x3F00 ∧
      0x2000 ≤ (0x3EFF : Word).toNat ∧ (0x3EFF : Word).toNat < 0x3F00) ∧
      (0x3F00 ≤ (0x3F00 : Word).toNat ∧ (0x3F00 : Word).toNat < 0x3F20 ∧
        0x3F00 ≤ (0x3F1F : Word).toNat ∧ (0x3F1F : Word).toNat < 0x3F20) := by decide

/-- The VRAM address after one PPUDATA read. -/
def addressAfterRead (s : State) : Option Nat := (got (busRead 0x2007 s)).map fun r => r.2.ppu.vaddr.toNat

theorem witness_VramWrittenThroughThePortsReadsBack_routed :
    Memory.wf 0x800 State.reset.ppu.vram = true ∧ State.reset.ppu.addrHiNext = true ∧
      0x2000 ≤ (joinBytes 0x20 0x00).toNat ∧ (joinBytes 0x20 0x00).toNat < 0x3000 ∧
      0x2000 ≤ (joinBytes 0x2F 0xFE).toNat ∧ (joinBytes 0x2F 0xFE).toNat < 0x3000 ∧
      addressAfterRead (faultAt 0x2FFE) = some 0x2FFF ∧
      addressAfterRead (hwAt 0x2FFF) = some 0x3000 ∧ (hwAt 0x2FFF).params.unrouted = .hwMirror := by decide

/-- At the last nametable address the second read is at an unrouted address. -/
theorem witness_VramWrittenThroughThePortsReadsBack_faults :
    Memory.wf 0x800 (faultAt 0).ppu.vram = true ∧ (faultAt 0).ppu.addrHiNext = true ∧
      0x2000 ≤ (joinBytes 0x2F 0xFF).toNat ∧ (joinBytes 0x2F 0xFF).toNat < 0x3000 ∧
      addressAfterRead (faultAt 0x2FFF) = some 0x3000 ∧ (faultAt 0x2FFF).params.unrouted = .fault := by decide

theorem witness_LoadsLoadTheOperand :
    operandReadOk (.abx 0xFFFF) { State.reset with x := 2 } = true ∧ operandReadOk (.imm 0x80) State.reset = true ∧
      operandReadOk (.zpy 0xFF) State.reset = true ∧ operandReadOk (.abs 0x2002) State.reset = true ∧
      ((Operand.imm 0x80).mode, (0xA9 : Byte)) ∈ [(Mode.imm, (0xA9 : Byte))] := by decide

theorem witness_StoresWriteTheRegister :
    (resolve (.abx 0x20FF) { State.reset with x := 1 }).opnd = .addr 0x2100 ∧
      writeOk 0x2100 { State.reset with x := 1 } = true ∧
      (resolve (.zpy 0xFF) State.reset).opnd = .addr 0x00FF ∧ writeOk 0x00FF State.reset = true ∧
      writeOk 0xFFFF State.reset = true := by decide

theorem witness_AdcAndSbcAddThroughOnePath :
    operandReadOk (.izy 0xFF) State.reset = true ∧ operandReadOk (.imm 0xFF) { State.reset with p := 0x09 } = true := by
  decide

theorem witness_ComparesSetFlagsOnly :
    operandReadOk (.imm 0x00) State.reset = true ∧ operandReadOk (.abs 0x1FFF) (hwAt 0) = true := by decide

theorem witness_LogicCombinesWithA :
    operandReadOk (.izx 0xFF) State.reset = true ∧ operandReadOk (.abs 0x3FFA) State.reset = true := by decide

theorem witness_IncAndDecModifyMemory :
    operandModifyOk (.abx 0xFFFF) { State.reset with x := 1 } = true ∧
      operandModifyOk (.abs 0x2007) (withPpu fun u => { u with vaddr := 0x2FFE }) = true ∧
      operandModifyOk (.abs 0x2007) (withPpu fun u => { u with vaddr := 0x2FFF }) = false := by decide

theorem witness_ShiftsMoveOneBit :
    operandModifyOk .acc State.reset = true ∧ operandModifyOk (.zpx 0xFF) State.reset = true ∧
      operandModifyOk (.abs 0x2004) State.reset = true := by decide

theorem witness_JumpsGoToTheTarget :
    busRead 0x02FF State.reset = .next (0x00, State.reset) ∧ readOk 0x0200 State.reset = true ∧
      busRead 0xFFFF State.reset = .next (0x00, State.reset) ∧ readOk 0xFF00 State.reset = true :=
  ⟨by rfl, by decide, by rfl, by decide⟩

theorem witness_BrkTakesTheInterrupt : wordAt 0xFFFE brkStart = some 0x9000 := by decide

theorem witness_FlagInstructionsAndNops : (0x02 : Byte) ∈ unknownOpcodes ∧ (0xFF : Byte) ∈ unknownOpcodes := by decide

theorem witness_CallsAndPushesReturn : Memory.wf 0x800 ({ State.reset with sp := 0x00 } : State).ram = true := by decide

theorem witness_InterruptsReturn :
    Memory.wf 0x800 brkStart.ram = true ∧ wordAt 0xFFFE brkStart = some 0x9000 ∧ brkStart.cpuSet = true ∧
      flag .i brkStart.p = false := by decide

theorem witness_IrqAndNmiEnterTheHandler :
    interruptStart.cpuSet = true ∧ flag .i interruptStart.p = false ∧ wordAt 0xFFFE interruptStart = some 0xC000 ∧
      wordAt 0xFFFA interruptStart = some 0xD000 ∧ flag .i ({ interruptStart with p := 0x04 } : State).p = true := by decide

theorem witness_ResetSetsTheCpuRegistersOnly :
    wordAt 0xFFFC { State.reset with mapper := { Mapper.unlisted with prg := [(0x7FFD, 0x80)] } } = some 0x8000 ∧
      prgAt { Mapper.unlisted with prgRejects := [⟨0x7FFC, 0x7FFC⟩] } 0x7FFC = none ∧
      prgAt { Mapper.unlisted with prgRejects := [⟨0x7FFD, 0x7FFD⟩] } 0x7FFC = some 0x00 ∧
      prgAt { Mapper.unlisted with prgRejects := [⟨0x7FFD, 0x7FFD⟩] } 0x7FFD = none := by decide

theorem witness_CyclesAreBasePlusPenalties_store_and_modify :
    exec (.sta (.aby 0x0200)) State.reset = .next { State.reset with cycles := 5 } ∧
      operandOf (.sta (.aby 0x0200)) = some (.aby 0x0200) ∧
      ((Operand.aby 0x0200).mode, 5) ∈
        [(Mode.zp0, 3), (.zpx, 4), (.zpy, 4), (.abs, 4), (.abx, 5), (.aby, 5), (.izx, 6), (.izy, 6)] ∧
      exec (.lsr .acc) { State.reset with a := 4 } = .next { State.reset with a := 2, cycles := 2 } ∧
      operandOf (.lsr .acc) = some .acc ∧
      (Operand.acc.mode, 2) ∈ [(Mode.acc, 2), (.zp0, 5), (.zpx, 6), (.abs, 6), (.abx, 7)] :=
  ⟨by rfl, rfl, by decide, by rfl, rfl, by decide⟩

theorem witness_CyclesAreBasePlusPenalties :
    exec (.lda (.abx 0x02FF)) { State.reset with x := 1, a := 9 } =
        .next { State.reset with x := 1, p := 0x02, cycles := 5 } ∧
      operandOf (.lda (.abx 0x02FF)) = some (.abx 0x02FF) ∧
      exec (.bcc 0x80) State.reset = .next { State.reset with pc := 0xFF80, cycles := 4 } ∧
      operandOf (.bcc 0x80) = none := ⟨by rfl, rfl, by rfl, rfl⟩

/-- A state that differs from `State.reset` in what the picture does not depend on. -/
def otherPicture : State :=
  { State.reset with
    a := 1, pc := 2, ram := [(0, 1)]
    ppu := { State.reset.ppu with ctrl := 0x87, mask := 0xFF, scrollX := 5, vaddr := 0x2000, readBuf := 9 }
    mapper := { Mapper.unlisted with prg := [(0, 1)], mirror := .vertical } }

theorem witness_RenderDependsOnlyOnThePicture :
    otherPicture.mapper.chr = State.reset.mapper.chr ∧ otherPicture.mapper.chrRejects = State.reset.mapper.chrRejects ∧
      otherPicture.ppu.vram = State.reset.ppu.vram ∧ otherPicture.ppu.palette = State.reset.ppu.palette ∧
      otherPicture.ppu.oam = State.reset.ppu.oam ∧
      otherPicture.ppu.ctrl.getLsbD 3 = State.reset.ppu.ctrl.getLsbD 3 ∧
      otherPicture.ppu.ctrl.getLsbD 4 = State.reset.ppu.ctrl.getLsbD 4 ∧ otherPicture ≠ State.reset := by decide

theorem witness_RenderOverwritesTheWholeFrame :
    (List.replicate (frameWidth * frameHeight * 3) (0x00 : Byte)).length = frameWidth * frameHeight * 3 ∧
      (List.replicate (frameWidth * frameHeight * 3) (0xFF : Byte)).length = frameWidth * frameHeight * 3 :=
  ⟨List.length_replicate, List.length_replicate⟩

theorem witness_RenderedPixelsAreTheFrontmostSprites :
    (∀ off, off < 0x2000 → (chrAt State.reset.mapper off).isSome = true) ∧ 255 < frameWidth ∧ 239 < frameHeight := by
  refine ⟨fun off _ => ?_, by decide, by decide⟩
  simp [chrAt, State.reset, Mapper.unlisted, rejected]

theorem witness_BaseMapperIsAPassthrough :
    (0x7FFF : Nat) ≤ 0x7FFF ∧ (List.replicate 0x8000 (0x01 : Byte)).length = 0x8000 ∧
      (List.replicate 0x4000 (0x01 : Byte)).length = 0x4000 ∧
      ((List.replicate 3 (0x01 : Byte)).length ≠ 0x8000 ∧ (List.replicate 3 (0x01 : Byte)).length ≠ 0x4000) ∧
      (0x1FFF : Nat) ≤ 0x1FFF :=
  ⟨by decide, List.length_replicate, List.length_replicate, by decide, by decide⟩

/-- The base counts of R67, one row of each class (VA and VL rows of 95_test_vectors.md, W2). -/
theorem test_base_counts : countOf (.lda (.izy 0x40)) = 5 ∧ countOf (.sta (.abx 0x02FF)) = 5 ∧
    countOf (.inc (.abx 0x02FF)) = 7 ∧ countOf (.asl .acc) = 2 ∧ countOf (.jmp (.ind 0x02FF)) = 5 := by decide

end Sys2Proof.Tests
end

section
/-! SUPPORT. The mirrors of the PPU's address space, and what the actions of the machine leave of the devices outside the
CPU: the cartridge, the parameters and the PPU's storage and registers. -/

namespace Sys2Proof.Machine

/-! ## The folded PPU addresses -/

/-- The mask of R49 keeps bit 13 and the low twelve bits of an address in 0x2000–0x3FFF. -/
theorem toNat_and_2FFF {a : Word} (h : 0x2000 ≤ a.toNat) (h' : a.toNat < 0x4000) :
    (a &&& 0x2FFF).toNat = 0x2000 + a.toNat % 0x1000 := by
  have low : (a.toNat &&& 0x2FFF) % 2 ^ 12 = a.toNat % 2 ^ 12 := by
    rw [Nat.and_mod_two_pow, show 0x2FFF % 2 ^ 12 = 2 ^ 12 - 1 from rfl, Nat.and_two_pow_sub_one_eq_mod, Nat.mod_mod]
  have high : (a.toNat &&& 0x2FFF) / 2 ^ 12 = 2 := by
    rw [Nat.and_div_two_pow]
    obtain h2 | h3 : a.toNat / 2 ^ 12 = 2 ∨ a.toNat / 2 ^ 12 = 3 := by omega
    · rw [h2]; rfl
    · rw [h3]; rfl
  rw [BitVec.toNat_and, show (0x2FFF : Word).toNat = 0x2FFF from rfl]
  omega

/-- The index R49 takes apart: the offset of the address in the four nametables. -/
theorem toNat_nametableOffset {a : Word} (h : 0x2000 ≤ a.toNat) (h' : a.toNat < 0x4000) :
    ((a &&& 0x2FFF) - 0x2000).toNat = a.toNat % 0x1000 := by
  have := toNat_and_2FFF h h'
  bv_omega

/-- Vertical mirroring keeps the offset modulo 2 KB. -/
theorem ntIndex_vertical {a : Word} (h : 0x2000 ≤ a.toNat) (h' : a.toNat < 0x4000) :
    ntIndex .vertical a = a.toNat % 0x800 := by
  simp only [ntIndex, toNat_nametableOffset h h', true_and, reduceCtorEq, false_and, if_false]
  split <;> omega

/-- Horizontal mirroring keeps the offset in the nametable and the upper bit of the nametable's number. -/
theorem ntIndex_horizontal {a : Word} (h : 0x2000 ≤ a.toNat) (h' : a.toNat < 0x4000) :
    ntIndex .horizontal a = a.toNat % 0x1000 / 0x800 * 0x400 + a.toNat % 0x400 := by
  simp only [ntIndex, toNat_nametableOffset h h', true_and, reduceCtorEq, false_and, if_false]
  split
  · omega
  · split <;> omega

/-- Settles O32: the nametable index in closed form for each mirroring, and the palette index read off `palIndex`. -/
theorem nametablesAndPaletteAreMirrored : Obligations.NametablesAndPaletteAreMirrored := by
  intro a
  constructor
  · intro h h'
    rw [ntIndex_vertical h (by omega), ntIndex_horizontal h (by omega)]
    omega
  · intro h h'
    unfold palIndex
    dsimp only
    split <;> split <;> omega

/-! ## What an action leaves of the devices -/

/-- The cartridge, the parameters and the PPU are the same in `t` as in `s`, but for the PPU's address, address latch and
read buffer, which reads may change (R43). -/
structure DevicesKept (s t : State) : Prop where
  mapper : t.mapper = s.mapper
  params : t.params = s.params
  ppu : t.ppu = { s.ppu with vaddr := t.ppu.vaddr, addrHiNext := t.ppu.addrHiNext, readBuf := t.ppu.readBuf }

namespace DevicesKept

/-- Registers, RAM and counters are no part of the devices: an update of theirs has all three equations by `rfl`. -/
theorem of_eq {s t : State} (hm : t.mapper = s.mapper) (hp : t.params = s.params) (hu : t.ppu = s.ppu) :
    DevicesKept s t := ⟨hm, hp, by rw [hu]⟩

theorem refl (s : State) : DevicesKept s s := of_eq rfl rfl rfl

theorem trans {s t u : State} (h : DevicesKept s t) (h' : DevicesKept t u) : DevicesKept s u := by
  refine ⟨h'.mapper.trans h.mapper, h'.params.trans h.params, ?_⟩
  have hu := h'.ppu
  rw [h.ppu] at hu
  exact hu

/-- Everything a read may change is outside what `DevicesKept` keeps. -/
theorem of_readLeaves {s t : State} (h : ReadLeaves s t) : DevicesKept s t := by
  obtain ⟨va, hi, buf, n, rfl, -⟩ := h
  exact ⟨rfl, rfl, rfl⟩

theorem status {s t : State} (h : DevicesKept s t) : t.ppu.status = s.ppu.status := by rw [h.ppu]

end DevicesKept

/-- A Bus write that leads to no PPU register changes RAM at most. -/
theorem busWrite_devicesKept {a : Word} {v : Byte} {s t : State} (ha : ∀ r, busTarget a ≠ .ppu r)
    (h : busWrite a v s = .next t) : DevicesKept s t := by
  unfold busWrite at h
  split at h
  · cases h; exact .of_eq rfl rfl rfl
  · exact absurd ‹_› (ha _)
  · cases h; exact .refl s
  · cases h; exact .refl s

/-- Taking an interrupt pushes to RAM and reads the vector. -/
theorem enterInterrupt_devicesKept {vector ret : Word} {copy : Byte} {s t : State}
    (h : enterInterrupt vector ret copy s = .next t) : DevicesKept s t := by
  obtain ⟨w, u, hread, rfl⟩ := enterInterrupt_next h
  have pushed : DevicesKept s ((push copy (pushWord ret s)).setP (setFlag .i true s.p)) := .of_eq rfl rfl rfl
  exact (pushed.trans (.of_readLeaves (read16_next hread))).trans (.of_eq rfl rfl rfl)

/-- Resolving a jump's target reads the pointer at most. -/
theorem resolveJump_next {j : JumpOperand} {w : Word} {s t : State} (h : resolveJump j s = .next (w, t)) :
    ReadLeaves s t := by
  cases j with
  | abj w => cases h; exact .refl s
  | ind ptr =>
    obtain ⟨l, hl, h⟩ := andThen_eq_next.mp h
    obtain ⟨q, hq, h⟩ := andThen_eq_next.mp h
    cases h
    exact (busRead_next hl).trans (busRead_next hq)

/-! ## What an instruction does to the devices -/

/-- From `s` to `t` the devices change at most by one Bus write, at the address `addr` if there is one. -/
def OneStoreAt (addr : Option Word) (s t : State) : Prop :=
  DevicesKept s t ∨
    ∃ ea v u w, addr = some ea ∧ DevicesKept s u ∧ busWrite ea v u = .next w ∧ DevicesKept w t

/-- A store that goes on after `s` is at most a Bus write at the address the operand leads to. -/
theorem store_oneStoreAt {m : Operand} {v : Byte} {s u w t : State} (hu : DevicesKept s u)
    (h : store (resolve m s).opnd v u = .next w) (ht : DevicesKept w t) : OneStoreAt (storeAddress (.sta m) s) s t := by
  obtain ⟨_, rfl⟩ | ⟨ea, hea, hw⟩ := store_next h
  · have written : DevicesKept u (u.setA v) := .of_eq rfl rfl rfl
    exact .inl ((hu.trans written).trans ht)
  · exact .inr ⟨ea, v, u, w, by simp [storeAddress, hea], hu, hw, ht⟩

section Shapes

variable {i : Instr} {modes : List Mode} {m : Operand} {s t : State}

/-- The instructions that only load their operand. -/
theorem loadThen_devicesKept {f : Byte → State → State} (h : withOperand i modes m (loadThen f) s = .next t)
    (hf : ∀ v u, DevicesKept u (f v u)) : DevicesKept s t := by
  obtain ⟨_, u, hu, rfl⟩ := withOperand_next h
  obtain ⟨v, w, hload, rfl⟩ := loadThen_next hu
  exact ((DevicesKept.of_readLeaves (load_next hload)).trans (hf v w)).trans (.of_eq rfl rfl rfl)

/-- The instructions that only store a register. -/
theorem storeReg_oneStoreAt {reg : State → Byte}
    (h : withOperand i modes m (fun o u => store o (reg u) u) s = .next t) :
    OneStoreAt (storeAddress (.sta m) s) s t := by
  obtain ⟨_, u, hu, rfl⟩ := withOperand_next h
  exact store_oneStoreAt (.refl s) hu (.of_eq rfl rfl rfl)

/-- The instructions that read their operand and write it back. -/
theorem modify_oneStoreAt {f : ByteOp} (h : withOperand i modes m (modify f) s = .next t) :
    OneStoreAt (storeAddress (.sta m) s) s t := by
  obtain ⟨_, x, hx, rfl⟩ := withOperand_next h
  obtain ⟨v, u, w, hload, hstore, rfl⟩ := modify_next hx
  exact store_oneStoreAt (.of_readLeaves (load_next hload)) hstore (.of_eq rfl rfl rfl)

end Shapes

/-- All an instruction does to the devices: its reads, and one Bus write at its store address (R97). -/
theorem exec_oneStoreAt {i : Instr} {s t : State} (h : exec i s = .next t) : OneStoreAt (storeAddress i s) s t := by
  cases i with
  | lda m | ldx m | ldy m | adc m | sbc m | cmp m | cpx m | cpy m | and m | ora m | eor m | bit m =>
    exact .inl (loadThen_devicesKept h fun _ _ => .of_eq rfl rfl rfl)
  | sta m | stx m | sty m => exact storeReg_oneStoreAt h
  | inc m | dec m | asl m | lsr m | rol m | ror m => exact modify_oneStoreAt h
  | bcc off | bcs off | beq off | bne off | bmi off | bpl off | bvc off | bvs off =>
    cases h
    left
    split <;> exact .of_eq rfl rfl rfl
  | jmp j =>
    obtain ⟨r, hr, h⟩ := andThen_eq_next.mp h
    cases h
    exact .inl ((DevicesKept.of_readLeaves (resolveJump_next hr)).trans (.of_eq rfl rfl rfl))
  | brk =>
    obtain ⟨u, hu, h⟩ := andThen_eq_next.mp h
    cases h
    exact .inl ((enterInterrupt_devicesKept hu).trans (.of_eq rfl rfl rfl))
  | unknown op =>
    simp only [exec, execUnknown] at h
    split at h
    · cases h; exact .inl (.of_eq rfl rfl rfl)
    · cases h
  | tax | tay | txa | tya | tsx | txs | inx | iny | dex | dey | jsr w | rts | pha | pla | php | plp | rti
  | clc | sec | cli | sei | cld | sed | clv | nop =>
    cases h
    exact .inl (.of_eq rfl rfl rfl)

/-- An instruction whose store address leads to no PPU register keeps the devices. -/
theorem exec_devicesKept {i : Instr} {s t : State} (h : exec i s = .next t)
    (ha : ∀ ea r, storeAddress i s = some ea → busTarget ea ≠ .ppu r) : DevicesKept s t := by
  obtain kept | ⟨ea, v, u, w, hea, hu, hw, ht⟩ := exec_oneStoreAt h
  · exact kept
  · exact (hu.trans (busWrite_devicesKept (fun r => ha ea r hea) hw)).trans ht

/-- Settles O16: an instruction changes the PPU's storage by its one store alone. -/
theorem ppuStorageChangesOnlyByStores : Obligations.PpuStorageChangesOnlyByStores := by
  intro i s t h ha
  rw [(exec_devicesKept h ha).ppu]
  exact ⟨fun _ => rfl, fun _ => rfl, fun _ => rfl, rfl, rfl, rfl, rfl, rfl, rfl, rfl⟩

/-! ## What a host action leaves of the cartridge, the parameters and Status -/

/-- The cartridge, the parameters and the PPU's Status byte are the same in `t` as in `s`. -/
structure SetupKept (s t : State) : Prop where
  mapper : t.mapper = s.mapper
  params : t.params = s.params
  status : t.ppu.status = s.ppu.status

theorem SetupKept.trans {s t u : State} (h : SetupKept s t) (h' : SetupKept t u) : SetupKept s u :=
  ⟨h'.mapper.trans h.mapper, h'.params.trans h.params, h'.status.trans h.status⟩

theorem DevicesKept.setupKept {s t : State} (h : DevicesKept s t) : SetupKept s t := ⟨h.mapper, h.params, h.status⟩

/-- No Bus write reaches the cartridge, the parameters or Status (R42, R171). -/
theorem busWrite_setupKept {a : Word} {v : Byte} {s t : State} (h : busWrite a v s = .next t) : SetupKept s t := by
  obtain ⟨ram, u, rfl, hstatus, -⟩ := busWrite_next h
  exact ⟨rfl, rfl, hstatus⟩

theorem exec_setupKept {i : Instr} {s t : State} (h : exec i s = .next t) : SetupKept s t := by
  obtain kept | ⟨ea, v, u, w, -, hu, hw, ht⟩ := exec_oneStoreAt h
  · exact kept.setupKept
  · exact (hu.setupKept.trans (busWrite_setupKept hw)).trans ht.setupKept

theorem fetchByte_devicesKept {b : Byte} {s t : State} (h : fetchByte s = .next (b, t)) : DevicesKept s t := by
  obtain ⟨r, hr, h⟩ := andThen_eq_next.mp h
  cases h
  exact (DevicesKept.of_readLeaves (busRead_next hr)).trans (.of_eq rfl rfl rfl)

theorem fetchBytes_devicesKept {n : Nat} {bs : List Byte} {s t : State} (h : fetchBytes n s = .next (bs, t)) :
    DevicesKept s t := by
  induction n generalizing bs s with
  | zero => cases h; exact .refl _
  | succ n ih =>
    obtain ⟨r, hr, h⟩ := andThen_eq_next.mp h
    obtain ⟨q, hq, h⟩ := andThen_eq_next.mp h
    cases h
    exact (fetchByte_devicesKept hr).trans (ih hq)

theorem fetch_devicesKept {i : Instr} {s t : State} (h : fetch s = .next (i, t)) : DevicesKept s t := by
  obtain ⟨r, hr, h⟩ := andThen_eq_next.mp h
  obtain ⟨q, hq, h⟩ := andThen_eq_next.mp h
  split at h
  · cases h; exact (fetchByte_devicesKept hr).trans (fetchBytes_devicesKept hq)
  · cases h

/-- A step is a fetch and the fetched instruction's meaning. -/
theorem step_setupKept {s t : State} (h : step s = .next t) : SetupKept s t := by
  unfold step at h
  split at h
  · obtain ⟨r, hr, h⟩ := andThen_eq_next.mp h
    exact (fetch_devicesKept hr).setupKept.trans (exec_setupKept h)
  · cases h

theorem resetAction_devicesKept {s t : State} (h : resetAction s = .next t) : DevicesKept s t := by
  obtain ⟨r, hr, h⟩ := andThen_eq_next.mp h
  cases h
  exact (DevicesKept.of_readLeaves (read16_next hr)).trans (.of_eq rfl rfl rfl)

theorem irqAction_devicesKept {s t : State} (h : irqAction s = .next t) : DevicesKept s t := by
  unfold irqAction at h
  split at h
  · cases h
  · split at h
    · cases h; exact .of_eq rfl rfl rfl
    · obtain ⟨u, hu, h⟩ := andThen_eq_next.mp h
      cases h
      exact (enterInterrupt_devicesKept hu).trans (.of_eq rfl rfl rfl)

theorem nmiAction_devicesKept {s t : State} (h : nmiAction s = .next t) : DevicesKept s t := by
  unfold nmiAction at h
  split at h
  · cases h
  · obtain ⟨u, hu, h⟩ := andThen_eq_next.mp h
    cases h
    exact (enterInterrupt_devicesKept hu).trans (.of_eq rfl rfl rfl)

/-- An action with a cycle count goes on where the action itself does. -/
theorem withCycles_next {x : Result State} {t : State} {r : Reply} (h : withCycles x = .next (t, r)) :
    x = .next t ∧ r = .cycles t.cycles := by
  obtain ⟨u, hu, h⟩ := andThen_eq_next.mp h
  cases h
  exact ⟨hu, rfl⟩

/-- `render` gives the frame back and leaves the state, or ends in the fault of the rendering (R172). -/
theorem perform_render (s : State) :
    HostAction.render.perform s = andThen (render s) fun f => .next (s, .frame f) := rfl

/-- Every host action but `set_status` keeps the cartridge, the parameters and Status. -/
theorem perform_setupKept {a : HostAction} {s t : State} {r : Reply} (ha : ∀ v, a ≠ .setStatus v)
    (h : a.perform s = .next (t, r)) : SetupKept s t := by
  cases a with
  | reset => exact (resetAction_devicesKept (withCycles_next h).1).setupKept
  | step => exact step_setupKept (withCycles_next h).1
  | irq => exact (irqAction_devicesKept (withCycles_next h).1).setupKept
  | nmi => exact (nmiAction_devicesKept (withCycles_next h).1).setupKept
  | render =>
    rw [perform_render] at h
    obtain ⟨f, _, h⟩ := andThen_eq_next.mp h
    cases h
    exact ⟨rfl, rfl, rfl⟩
  | setStatus v => exact absurd rfl (ha v)

/-- Settles O12: `set_status` writes Status alone, and every other action keeps the set-up. -/
theorem cartridgeFixedAndStatusOnlyHostWritten : Obligations.CartridgeFixedAndStatusOnlyHostWritten := by
  refine ⟨fun a s t r h => ?_, fun _ _ => rfl, perform_render⟩
  cases a with
  | setStatus v =>
    cases h
    exact ⟨rfl, rfl, fun hne => absurd rfl (hne v)⟩
  | reset | step | irq | nmi | render =>
    have kept := perform_setupKept (by simp) h
    exact ⟨kept.mapper, kept.params, fun _ => kept.status⟩

end Sys2Proof.Machine
end

section
/-! SUPPORT. The invariant of the state: the advance of the VRAM address, the canonical data every access keeps, and the
frame of the CPU registers and flags that every instruction respects. -/

namespace Sys2Proof.Machine

/-! ## The VRAM address as a number -/

theorem toNat_loByte (w : Word) : (loByte w).toNat = w.toNat % 0x100 := by simp [loByte]

theorem toNat_hiByte (w : Word) : (hiByte w).toNat = w.toNat / 0x100 := by
  have := w.isLt
  simp only [hiByte, BitVec.extractLsb'_toNat, Nat.shiftRight_eq_div_pow]
  omega

theorem toNat_joinBytes (h l : Byte) : (joinBytes h l).toNat = h.toNat * 0x100 + l.toNat := by
  rw [joinBytes, BitVec.toNat_append, Nat.shiftLeft_eq_mul_pow, mul_comm, Nat.two_pow_add_eq_or_of_lt l.isLt]

/-- The mask of R167 is the remainder modulo 2^14, whether the test before it holds or not. -/
theorem toNat_mask14 (w : Word) : (mask14 w).toNat = w.toNat % 0x4000 := by
  unfold mask14
  split
  · rw [BitVec.toNat_and]
    exact Nat.and_two_pow_sub_one_eq_mod _ 14
  · omega

/-- The carry of the low byte makes the byte-wise sum of R168 the sum modulo 2^14. -/
theorem toNat_advanceVaddr (v : Word) {n : Nat} (hn : n ≤ 0x100) :
    (advanceVaddr n v).toNat = (v.toNat + n) % 0x4000 := by
  simp only [advanceVaddr, toNat_mask14, toNat_joinBytes, toNat_hiByte, toNat_loByte, BitVec.toNat_ofNat]
  split <;> omega

/-- Settles O28: the byte-wise advance in numbers; the increment and the latch are read off the definitions. -/
theorem vramAddressAdvancesModulo14Bits : Obligations.VramAddressAdvancesModulo14Bits :=
  fun v _ u _ hn => ⟨toNat_advanceVaddr v (by omega), rfl, Ppu.advance_eq u⟩

/-! ## Where the PPU's address space leads is inside its memories -/

theorem ntIndex_lt {a : Word} (mode : MirrorMode) (h : 0x2000 ≤ a.toNat) (h' : a.toNat < 0x4000) :
    ntIndex mode a < 0x800 := by
  cases mode
  · rw [ntIndex_horizontal h h']; omega
  · rw [ntIndex_vertical h h']; omega

theorem palIndex_lt {a : Word} (h : a.toNat < 0x3F20) : palIndex a < 0x20 := by
  unfold palIndex
  dsimp only
  split <;> omega

/-- The mirror of R51 folds an address into 0x3F00–0x3F1F. -/
theorem toNat_paletteMirror_lt (a : Word) : (0x3F00 + (a &&& 0x001F) : Word).toNat < 0x3F20 := by
  have low : (a &&& 0x001F).toNat ≤ 0x1F := by
    rw [BitVec.toNat_and]
    exact Nat.and_le_right
  bv_omega

theorem ppuTarget_vram_lt {ps : Params} {mode : MirrorMode} {a : Word} {i : Nat} (h : ppuTarget ps mode a = .vram i) :
    i < 0x800 := by
  simp only [ppuTarget] at h
  split_ifs at h
  · cases h; exact ntIndex_lt mode (by omega) (by omega)
  · split at h <;> cases h
    exact ntIndex_lt mode (by omega) (by omega)
  · split at h <;> cases h

theorem ppuTarget_palette_lt {ps : Params} {mode : MirrorMode} {a : Word} {j : Nat}
    (h : ppuTarget ps mode a = .palette j) : j < 0x20 := by
  simp only [ppuTarget] at h
  split_ifs at h
  · split at h <;> cases h
  · injection h with hj
    exact hj ▸ palIndex_lt ‹_›
  · split at h
    · cases h
    · injection h with hj
      exact hj ▸ palIndex_lt (toNat_paletteMirror_lt a)

/-! ## Canonical data -/

/-- The PPU's part of the invariant (R30). -/
structure PpuWf (u : Ppu) : Prop where
  vram : Memory.wf 0x800 u.vram = true
  oam : Memory.wf 0x100 u.oam = true
  palette : Memory.wf 0x20 u.palette = true
  vaddr : u.vaddr.toNat ≤ 0x3FFF

/-- The invariant without the two bits of P. -/
structure DataWf (s : State) : Prop where
  ram : Memory.wf 0x800 s.ram = true
  ppu : PpuWf s.ppu
  cartridge : CartridgeWf s.mapper

theorem inv_iff {s : State} : Inv s ↔ DataWf s ∧ flag .b s.p = false ∧ flag .u s.p = false := by
  constructor
  · rintro ⟨⟨hram, hvram, hoam, hpal⟩, hcart, hva, hflags⟩
    exact ⟨⟨hram, ⟨hvram, hoam, hpal, hva⟩, hcart⟩, hflags⟩
  · rintro ⟨⟨hram, ⟨hvram, hoam, hpal, hva⟩, hcart⟩, hflags⟩
    exact ⟨⟨hram, hvram, hoam, hpal⟩, hcart, hva, hflags⟩

namespace DataWf

variable {s t : State}

/-- Registers and counters are no part of the data: an update of theirs has all three equations by `rfl`. -/
theorem of_eq (h : DataWf s) (hr : t.ram = s.ram) (hu : t.ppu = s.ppu) (hm : t.mapper = s.mapper) : DataWf t :=
  ⟨hr ▸ h.ram, hu ▸ h.ppu, hm ▸ h.cartridge⟩

theorem setPpu (h : DataWf s) {u : Ppu} (hu : PpuWf u) : DataWf (s.setPpu u) := ⟨h.ram, hu, h.cartridge⟩

theorem setRam_memWrite (h : DataWf s) {k : Nat} (hk : k < 0x800) (v : Byte) :
    DataWf (s.setRam (memWrite s.ram k v)) := ⟨wf_memWrite h.ram hk v, h.ppu, h.cartridge⟩

/-- A read can move the VRAM address, but not out of its range. -/
theorem of_readLeaves (h : DataWf s) (hr : ReadLeaves s t) : DataWf t := by
  obtain ⟨va, hi, buf, n, rfl, hva⟩ := hr
  exact ⟨h.ram, ⟨h.ppu.vram, h.ppu.oam, h.ppu.palette, hva h.ppu.vaddr⟩, h.cartridge⟩

/-- The stack page lies in RAM. -/
theorem push (h : DataWf s) (v : Byte) : DataWf (push v s) := by
  have hk : stackIndex s.sp < 0x800 := by have := s.sp.isLt; unfold stackIndex; omega
  exact (h.setRam_memWrite hk v).of_eq rfl rfl rfl

theorem pushWord (h : DataWf s) (w : Word) : DataWf (pushWord w s) := (h.push _).push _

end DataWf

theorem PpuWf.advance {u : Ppu} (h : PpuWf u) : PpuWf u.advance := ⟨h.vram, h.oam, h.palette, advanceVaddr_le _ _⟩

theorem ppuDataWrite_dataWf {v : Byte} {s t : State} (hs : DataWf s) (h : ppuDataWrite v s = .next t) : DataWf t := by
  have hu := hs.ppu
  unfold ppuDataWrite at h
  dsimp only at h
  split at h
  next => cases h; exact hs.setPpu hu.advance
  next i hi =>
    cases h
    exact hs.setPpu (.advance ⟨wf_memWrite hu.vram (ppuTarget_vram_lt hi) v, hu.oam, hu.palette, hu.vaddr⟩)
  next j hj =>
    cases h
    exact hs.setPpu (.advance ⟨hu.vram, hu.oam, wf_memWrite hu.palette (ppuTarget_palette_lt hj) v, hu.vaddr⟩)
  next => cases h

theorem scrollWrite_ppuWf {u : Ppu} (h : PpuWf u) (v : Byte) : PpuWf (scrollWrite v u) := by
  unfold scrollWrite
  split <;> exact ⟨h.vram, h.oam, h.palette, h.vaddr⟩

theorem ppuWrite_dataWf {r : PpuReg} {v : Byte} {s t : State} (hs : DataWf s) (h : ppuWrite r v s = .next t) :
    DataWf t := by
  have hu := hs.ppu
  cases r with
  | ctrl | mask | oamAddr => cases h; exact hs.setPpu ⟨hu.vram, hu.oam, hu.palette, hu.vaddr⟩
  | status =>
    simp only [ppuWrite, ppuUndefinedWrite] at h
    split at h <;> cases h
    exact hs
  | oamData =>
    cases h
    exact hs.setPpu ⟨hu.vram, wf_memWrite hu.oam s.ppu.oamAddr.isLt v, hu.palette, hu.vaddr⟩
  | scroll => cases h; exact hs.setPpu (scrollWrite_ppuWf hu v)
  | addr => cases h; exact hs.setPpu ⟨hu.vram, hu.oam, hu.palette, mask14_le _⟩
  | data => exact ppuDataWrite_dataWf hs h

theorem busWrite_dataWf {a : Word} {v : Byte} {s t : State} (hs : DataWf s) (h : busWrite a v s = .next t) :
    DataWf t := by
  unfold busWrite at h
  split at h
  next hi => cases h; exact hs.setRam_memWrite (busTarget_ram_lt hi) v
  next => exact ppuWrite_dataWf hs h
  next => cases h; exact hs
  next => cases h; exact hs

theorem store_dataWf {o : Opnd} {v : Byte} {s t : State} (hs : DataWf s) (h : store o v s = .next t) : DataWf t := by
  obtain ⟨_, rfl⟩ | ⟨ea, _, hw⟩ := store_next h
  · exact hs.of_eq rfl rfl rfl
  · exact busWrite_dataWf hs hw

theorem enterInterrupt_dataWf {vector ret : Word} {copy : Byte} {s t : State} (hs : DataWf s)
    (h : enterInterrupt vector ret copy s = .next t) : DataWf t := by
  obtain ⟨w, u, hread, rfl⟩ := enterInterrupt_next h
  have pushed : DataWf ((push copy (pushWord ret s)).setP (setFlag .i true s.p)) :=
    ((hs.pushWord ret).push copy).of_eq rfl rfl rfl
  exact (pushed.of_readLeaves (read16_next hread)).of_eq rfl rfl rfl

theorem returnFromInterrupt_dataWf {s : State} (hs : DataWf s) : DataWf (returnFromInterrupt s) := by
  apply hs.of_eq <;> simp [returnFromInterrupt, pulled]

section Shapes

variable {i : Instr} {modes : List Mode} {m : Operand} {s t : State}

theorem loadThen_dataWf {f : Byte → State → State} (hs : DataWf s)
    (h : withOperand i modes m (loadThen f) s = .next t) (hf : ∀ v u, DataWf u → DataWf (f v u)) : DataWf t := by
  obtain ⟨_, u, hu, rfl⟩ := withOperand_next h
  obtain ⟨v, w, hload, rfl⟩ := loadThen_next hu
  exact (hf v w (hs.of_readLeaves (load_next hload))).of_eq rfl rfl rfl

theorem storeReg_dataWf {reg : State → Byte} (hs : DataWf s)
    (h : withOperand i modes m (fun o u => store o (reg u) u) s = .next t) : DataWf t := by
  obtain ⟨_, u, hu, rfl⟩ := withOperand_next h
  exact (store_dataWf hs hu).of_eq rfl rfl rfl

theorem modify_dataWf {f : ByteOp} (hs : DataWf s) (h : withOperand i modes m (modify f) s = .next t) : DataWf t := by
  obtain ⟨_, x, hx, rfl⟩ := withOperand_next h
  obtain ⟨v, u, w, hload, hstore, rfl⟩ := modify_next hx
  exact (store_dataWf (hs.of_readLeaves (load_next hload)) hstore).of_eq rfl rfl rfl

end Shapes

/-- Every instruction keeps the data canonical: it reads, stores at most once, or pushes. -/
theorem exec_dataWf {i : Instr} {s t : State} (hs : DataWf s) (h : exec i s = .next t) : DataWf t := by
  cases i with
  | lda m | ldx m | ldy m | adc m | sbc m | cmp m | cpx m | cpy m | and m | ora m | eor m | bit m =>
    exact loadThen_dataWf hs h fun _ _ hu => hu.of_eq rfl rfl rfl
  | sta m | stx m | sty m => exact storeReg_dataWf hs h
  | inc m | dec m | asl m | lsr m | rol m | ror m => exact modify_dataWf hs h
  | bcc off | bcs off | beq off | bne off | bmi off | bpl off | bvc off | bvs off =>
    cases h
    split <;> exact hs.of_eq rfl rfl rfl
  | jmp j =>
    obtain ⟨r, hr, h⟩ := andThen_eq_next.mp h
    cases h
    exact (hs.of_readLeaves (resolveJump_next hr)).of_eq rfl rfl rfl
  | jsr w => cases h; exact (hs.pushWord (s.pc - 1)).of_eq rfl rfl rfl
  | pha | php => cases h; exact (hs.push _).of_eq rfl rfl rfl
  | brk =>
    obtain ⟨u, hu, h⟩ := andThen_eq_next.mp h
    cases h
    exact (enterInterrupt_dataWf hs hu).of_eq rfl rfl rfl
  | unknown op =>
    simp only [exec, execUnknown] at h
    split at h <;> cases h
    exact hs.of_eq rfl rfl rfl
  | rti => cases h; exact (returnFromInterrupt_dataWf hs).of_eq rfl rfl rfl
  | tax | tay | txa | tya | tsx | txs | inx | iny | dex | dey | rts | pla | plp
  | clc | sec | cli | sei | cld | sed | clv | nop =>
    cases h
    exact hs.of_eq rfl rfl rfl

/-! ## The flags that the flag computations leave -/

@[simp] theorem flag_addFlags (f : Flag) (w : AddResult) (p : Byte) : flag f (addFlags w p) =
    if f = .n then w.r.getLsbD 7 else if f = .z then w.r == 0 else if f = .v then w.v else if f = .c then w.c
    else flag f p := by
  simp [addFlags]

@[simp] theorem flag_bitFlags (f : Flag) (a m p : Byte) : flag f (bitFlags a m p) =
    if f = .v then m.getLsbD 6 else if f = .n then m.getLsbD 7 else if f = .z then a &&& m == 0 else flag f p := by
  simp [bitFlags]

/-- A comparison writes N, Z and C, and V only under `CMP_WRITES_V` (R114). -/
theorem flag_compareFlags_other {ps : Params} {f : Flag} (h : f ∉ writtenFlags ps (.cmp .acc)) (reg m p : Byte) :
    flag f (compareFlags ps reg m p) = flag f p := by
  unfold compareFlags
  cases hv : ps.cmpWritesV <;> simp_all [writtenFlags]

/-! ## The frame of the CPU registers -/

/-- From `s` to `t`, only the listed registers of the CPU change, PC only if `jumps`, and of P only the listed flags. -/
structure CpuFrame (regs : List CpuReg) (jumps : Bool) (flags : List Flag) (s t : State) : Prop where
  a : .a ∉ regs → t.a = s.a
  x : .x ∉ regs → t.x = s.x
  y : .y ∉ regs → t.y = s.y
  sp : .sp ∉ regs → t.sp = s.sp
  pc : jumps = false → t.pc = s.pc
  cpuSet : t.cpuSet = s.cpuSet
  p : ∀ f ∉ flags, flag f t.p = flag f s.p

section Frames

variable {regs : List CpuReg} {jumps : Bool} {flags : List Flag} {s t u : State}

theorem CpuFrame.trans (h : CpuFrame regs jumps flags s t) (h' : CpuFrame regs jumps flags t u) :
    CpuFrame regs jumps flags s u where
  a hr := (h'.a hr).trans (h.a hr)
  x hr := (h'.x hr).trans (h.x hr)
  y hr := (h'.y hr).trans (h.y hr)
  sp hr := (h'.sp hr).trans (h.sp hr)
  pc hj := (h'.pc hj).trans (h.pc hj)
  cpuSet := h'.cpuSet.trans h.cpuSet
  p f hf := (h'.p f hf).trans (h.p f hf)

/-- A read changes no CPU register. -/
theorem CpuFrame.of_readLeaves (h : ReadLeaves s t) : CpuFrame regs jumps flags s t := by
  obtain ⟨va, hi, buf, n, rfl, -⟩ := h
  constructor <;> simp

/-- A Bus write changes no CPU register. -/
theorem busWrite_cpuFrame {a : Word} {v : Byte} (h : busWrite a v s = .next t) : CpuFrame regs jumps flags s t := by
  obtain ⟨ram, u, rfl, -, -⟩ := busWrite_next h
  constructor <;> simp

theorem finish_cpuFrame (i : Instr) (crossed : Bool) (extra : Nat) (s : State) :
    CpuFrame regs jumps flags s (finish i crossed extra s) := by
  constructor <;> simp [finish_eq]

theorem setPc_cpuFrame (s : State) (w : Word) : CpuFrame regs true flags s (s.setPc w) := by
  constructor <;> simp

theorem setP_cpuFrame {q : Byte} (h : ∀ f ∉ flags, flag f q = flag f s.p) :
    CpuFrame regs jumps flags s (s.setP q) := by
  constructor <;> simp_all

/-- PLP and RTI may write every flag. -/
theorem setP_cpuFrame_allFlags (q : Byte) (s : State) :
    CpuFrame regs jumps [.n, .v, .u, .b, .d, .i, .z, .c] s (s.setP q) :=
  setP_cpuFrame fun f hf => by cases f <;> simp at hf

theorem push_cpuFrame (h : .sp ∈ regs) (v : Byte) (s : State) : CpuFrame regs jumps flags s (push v s) := by
  constructor <;> simp [push, h]

theorem pushWord_cpuFrame (h : .sp ∈ regs) (w : Word) (s : State) : CpuFrame regs jumps flags s (pushWord w s) :=
  (push_cpuFrame h _ s).trans (push_cpuFrame h _ _)

theorem pulled_cpuFrame (h : .sp ∈ regs) (s : State) : CpuFrame regs jumps flags s (pulled s) := by
  constructor <;> simp [pulled, h]

theorem resolve_opnd_eq_acc {m : Operand} : (resolve m s).opnd = .acc ↔ m = .acc := by
  cases m <;> simp [resolve, indexed]

/-- A store writes A if the operand is ACC, and no CPU register otherwise (R95). -/
theorem store_cpuFrame {m : Operand} {v : Byte} (hacc : m = .acc → .a ∈ regs)
    (h : store (resolve m u).opnd v s = .next t) : CpuFrame regs jumps flags s t := by
  obtain ⟨ho, rfl⟩ | ⟨ea, _, hw⟩ := store_next h
  · have ha : .a ∈ regs := hacc (resolve_opnd_eq_acc.mp ho)
    constructor <;> simp_all
  · exact busWrite_cpuFrame hw

variable {i : Instr} {modes : List Mode} {m : Operand}

theorem loadThen_cpuFrame {f : Byte → State → State} (h : withOperand i modes m (loadThen f) s = .next t)
    (hf : ∀ v u, u.params = s.params → CpuFrame regs jumps flags u (f v u)) : CpuFrame regs jumps flags s t := by
  obtain ⟨_, u, hu, rfl⟩ := withOperand_next h
  obtain ⟨v, w, hload, rfl⟩ := loadThen_next hu
  have hread := load_next hload
  exact ((CpuFrame.of_readLeaves hread).trans (hf v w (DevicesKept.of_readLeaves hread).params)).trans
    (finish_cpuFrame ..)

/-- The compares: their handlers write flags alone. -/
theorem compare_cpuFrame {reg : State → Byte}
    (h : withOperand i modes m (loadThen fun v u => u.setP (compareFlags u.params (reg u) v u.p)) s = .next t) :
    CpuFrame regs jumps (writtenFlags s.params (.cmp .acc)) s t :=
  loadThen_cpuFrame h fun _ _ hps => setP_cpuFrame fun _ hf => flag_compareFlags_other (hps ▸ hf) _ _ _

theorem storeReg_cpuFrame {reg : State → Byte} (hmodes : .acc ∉ modes)
    (h : withOperand i modes m (fun o u => store o (reg u) u) s = .next t) : CpuFrame regs jumps flags s t := by
  obtain ⟨hm, u, hu, rfl⟩ := withOperand_next h
  have hacc : m ≠ .acc := by rintro rfl; exact hmodes hm
  exact (store_cpuFrame (absurd · hacc) hu).trans (finish_cpuFrame ..)

theorem modify_cpuFrame {f : ByteOp} (hacc : .acc ∈ modes → m = .acc → .a ∈ regs)
    (hf : ∀ v p, ∀ g ∉ flags, flag g (f v p).2 = flag g p) (h : withOperand i modes m (modify f) s = .next t) :
    CpuFrame regs jumps flags s t := by
  obtain ⟨hm, x, hx, rfl⟩ := withOperand_next h
  obtain ⟨v, u, w, hload, hstore, rfl⟩ := modify_next hx
  have read : CpuFrame regs jumps flags s u := .of_readLeaves (load_next hload)
  have stored : CpuFrame regs jumps flags u w := store_cpuFrame (fun h => hacc (by subst h; exact hm) h) hstore
  have flagged : CpuFrame regs jumps flags w (w.setP (f v u.p).2) :=
    setP_cpuFrame fun g hg => (hf v u.p g hg).trans (stored.p g hg).symm
  exact ((read.trans stored).trans flagged).trans (finish_cpuFrame ..)

end Frames

/-- Taking an interrupt pushes, sets I and jumps (R188). -/
theorem enterInterrupt_cpuFrame {vector ret : Word} {copy : Byte} {s t : State}
    (h : enterInterrupt vector ret copy s = .next t) : CpuFrame [.sp] true [.i] s t := by
  obtain ⟨w, u, hread, rfl⟩ := enterInterrupt_next h
  have pushed : CpuFrame [.sp] true [.i] s ((push copy (pushWord ret s)).setP (setFlag .i true s.p)) := by
    constructor <;> simp +contextual [pushWord, push]
  exact (pushed.trans (.of_readLeaves (read16_next hread))).trans (setPc_cpuFrame u w)

/-- The return from an interrupt pulls three bytes, and writes every flag (R150). -/
theorem returnFromInterrupt_cpuFrame (s : State) :
    CpuFrame [.sp] true [.n, .v, .u, .b, .d, .i, .z, .c] s (returnFromInterrupt s) := by
  have hsp : CpuReg.sp ∈ [CpuReg.sp] := by decide
  exact (((pulled_cpuFrame hsp s).trans (setP_cpuFrame_allFlags _ _)).trans
    ((pulled_cpuFrame hsp _).trans (pulled_cpuFrame hsp _))).trans (setPc_cpuFrame _ _)

/-- Every instruction writes at most the registers of its rule and the flags of R26. -/
theorem exec_cpuFrame {i : Instr} {s t : State} (h : exec i s = .next t) :
    CpuFrame (writtenRegs i) (transfersControl i) (writtenFlags s.params i) s t := by
  cases i with
  | lda m | ldx m | ldy m | adc m | sbc m | and m | ora m | eor m | bit m =>
    refine loadThen_cpuFrame h fun v u _ => ?_
    constructor <;> simp +contextual [writtenRegs, writtenFlags]
  | cmp m | cpx m | cpy m => exact compare_cpuFrame h
  | sta m | stx m | sty m => exact storeReg_cpuFrame (by decide) h
  | inc m | dec m =>
    refine modify_cpuFrame (absurd · (by decide)) (fun v p f hf => ?_) h
    simp_all [writtenFlags, incrementOp, decrementOp]
  | asl m | lsr m | rol m | ror m =>
    refine modify_cpuFrame (fun _ hm => by simp [writtenRegs, hm]) (fun v p f hf => ?_) h
    simp_all [writtenFlags, aslOp, lsrOp, rolOp, rorOp]
  | bcc off | bcs off | beq off | bne off | bmi off | bpl off | bvc off | bvs off =>
    cases h
    split
    · exact (setPc_cpuFrame s _).trans (finish_cpuFrame ..)
    · exact finish_cpuFrame ..
  | jmp j =>
    obtain ⟨r, hr, h⟩ := andThen_eq_next.mp h
    cases h
    exact ((CpuFrame.of_readLeaves (resolveJump_next hr)).trans (setPc_cpuFrame r.2 r.1)).trans (finish_cpuFrame ..)
  | jsr w =>
    cases h
    exact ((pushWord_cpuFrame (by simp [writtenRegs]) _ s).trans (setPc_cpuFrame _ w)).trans (finish_cpuFrame ..)
  | rts =>
    cases h
    exact (((pulled_cpuFrame (by decide) s).trans (pulled_cpuFrame (by decide) _)).trans (setPc_cpuFrame _ _)).trans
      (finish_cpuFrame ..)
  | brk =>
    obtain ⟨u, hu, h⟩ := andThen_eq_next.mp h
    cases h
    exact (enterInterrupt_cpuFrame hu).trans (finish_cpuFrame ..)
  | rti => cases h; exact (returnFromInterrupt_cpuFrame s).trans (finish_cpuFrame ..)
  | pha | php => cases h; exact (push_cpuFrame (by decide) _ s).trans (finish_cpuFrame ..)
  | unknown op =>
    simp only [exec, execUnknown] at h
    split at h <;> cases h
    exact finish_cpuFrame ..
  | nop => cases h; exact finish_cpuFrame ..
  | plp =>
    cases h
    exact ((pulled_cpuFrame (by decide) s).trans (setP_cpuFrame_allFlags _ _)).trans (finish_cpuFrame ..)
  | tax | tay | txa | tya | tsx | txs | inx | iny | dex | dey | pla
  | clc | sec | cli | sei | cld | sed | clv =>
    cases h
    constructor <;> simp +contextual [finish_eq, writtenRegs, writtenFlags, pulled]

/-- Settles O13: the flags of the frame. -/
theorem flagsOutsideTheTableAreUnchanged : Obligations.FlagsOutsideTheTableAreUnchanged :=
  fun _ _ _ h => (exec_cpuFrame h).p

/-- Settles O14: the registers of the frame. -/
theorem registersOutsideTheRuleAreUnchanged : Obligations.RegistersOutsideTheRuleAreUnchanged := by
  intro i s t h
  have frame := exec_cpuFrame h
  exact ⟨frame.a, frame.x, frame.y, frame.sp, frame.pc, frame.cpuSet⟩

/-! ## The invariant -/

/-- No instruction but PLP and RTI is given B or U by the flag table. -/
theorem plp_or_rti_of_writes_b_or_u {ps : Params} {i : Instr} {f : Flag} (hf : f = .b ∨ f = .u)
    (h : f ∈ writtenFlags ps i) : i = .plp ∨ i = .rti := by
  cases i with
  | plp => exact .inl rfl
  | rti => exact .inr rfl
  | cmp m | cpx m | cpy m =>
    simp only [writtenFlags] at h
    split at h <;> obtain rfl | rfl := hf <;> simp at h
  | _ => obtain rfl | rfl := hf <;> simp [writtenFlags] at h

/-- B and U stay 0: PLP and RTI clear them in what they pull, and no other instruction writes them (R25). -/
theorem exec_keeps_b_and_u_clear {i : Instr} {s t : State} {f : Flag} (hf : f = .b ∨ f = .u)
    (h : exec i s = .next t) (hs : flag f s.p = false) : flag f t.p = false := by
  by_cases hw : f ∈ writtenFlags s.params i
  · obtain rfl | rfl := plp_or_rti_of_writes_b_or_u hf hw
    · cases h; simp [finish_eq, hf.symm]
    · cases h; simp [finish_eq, returnFromInterrupt, pulled, hf.symm]
  · rw [(exec_cpuFrame h).p f hw, hs]

theorem exec_inv {i : Instr} {s t : State} (hs : Inv s) (h : exec i s = .next t) : Inv t := by
  obtain ⟨hdata, hb, hu⟩ := inv_iff.mp hs
  exact inv_iff.mpr
    ⟨exec_dataWf hdata h, exec_keeps_b_and_u_clear (.inl rfl) h hb, exec_keeps_b_and_u_clear (.inr rfl) h hu⟩

/-- A read keeps the invariant: it changes no CPU register. -/
theorem Inv.of_readLeaves {s t : State} (hs : Inv s) (h : ReadLeaves s t) : Inv t := by
  obtain ⟨hdata, hb, hu⟩ := inv_iff.mp hs
  have same : CpuFrame [] false [] s t := .of_readLeaves h
  exact inv_iff.mpr ⟨hdata.of_readLeaves h, by rwa [same.p .b (by simp)], by rwa [same.p .u (by simp)]⟩

/-- A fetch reads and moves PC, which the invariant does not speak of. -/
theorem fetchByte_inv {b : Byte} {s t : State} (hs : Inv s) (h : fetchByte s = .next (b, t)) : Inv t := by
  obtain ⟨r, hr, h⟩ := andThen_eq_next.mp h
  cases h
  have hread : Inv r.2 := Inv.of_readLeaves hs (busRead_next hr)
  exact hread

theorem fetchBytes_inv {n : Nat} {bs : List Byte} {s t : State} (hs : Inv s) (h : fetchBytes n s = .next (bs, t)) :
    Inv t := by
  induction n generalizing bs s with
  | zero => cases h; exact hs
  | succ n ih =>
    obtain ⟨r, hr, h⟩ := andThen_eq_next.mp h
    obtain ⟨q, hq, h⟩ := andThen_eq_next.mp h
    cases h
    exact ih (fetchByte_inv hs hr) hq

theorem fetch_inv {i : Instr} {s t : State} (hs : Inv s) (h : fetch s = .next (i, t)) : Inv t := by
  obtain ⟨r, hr, h⟩ := andThen_eq_next.mp h
  obtain ⟨q, hq, h⟩ := andThen_eq_next.mp h
  split at h <;> cases h
  exact fetchBytes_inv (fetchByte_inv hs hr) hq

/-- Settles O7: the fetch and the fetched instruction each keep the invariant. -/
theorem stepKeepsTheInvariant : Obligations.StepKeepsTheInvariant := by
  intro s t hs h
  unfold step at h
  split at h
  · obtain ⟨r, hr, h⟩ := andThen_eq_next.mp h
    exact exec_inv (fetch_inv hs hr) h
  · cases h

/-- Settles O8: the memories of State.reset list nothing, and its registers hold 0. -/
theorem resetStateHasTheInvariant : Obligations.ResetStateHasTheInvariant :=
  ⟨reset_memories_wf, ⟨rfl, rfl⟩, Nat.zero_le _, rfl, rfl⟩

end Sys2Proof.Machine
end

section
/-! SUPPORT. The memory map: what the Bus does in each of its four ranges, the reference base mapper, the frame of RAM
under every instruction, and VRAM through the PPU's address and data ports. -/

namespace Sys2Proof.Machine

/-! ## The ranges of the Bus -/

theorem busRead_ram {a : Word} {i : Nat} (ha : busTarget a = .ram i) (s : State) :
    busRead a s = .next (memRead s.ram i, s) := by
  unfold busRead
  rw [ha]

theorem peek_ram {a : Word} {i : Nat} (ha : busTarget a = .ram i) (s : State) :
    peek a s = some (memRead s.ram i) := by
  unfold peek
  rw [ha]

theorem busRead_ppu {a : Word} {r : PpuReg} (ha : busTarget a = .ppu r) (s : State) : busRead a s = ppuRead r s := by
  unfold busRead
  rw [ha]

theorem busWrite_ppu {a : Word} {r : PpuReg} (ha : busTarget a = .ppu r) (v : Byte) (s : State) :
    busWrite a v s = ppuWrite r v s := by
  unfold busWrite
  rw [ha]

/-- The PPU window is all that leads to a PPU register. -/
theorem busTarget_ne_ppu {a : Word} (h : a.toNat < 0x2000 ∨ 0x4000 ≤ a.toNat) (r : PpuReg) : busTarget a ≠ .ppu r := by
  obtain hram | hhigh := h
  · rw [busTarget_ram hram]; simp
  · obtain hlow | hprg := Nat.lt_or_ge a.toNat 0x8000
    · rw [busTarget_unmapped hhigh hlow]; simp
    · rw [busTarget_prg hprg]; simp

/-- The four mirrors of a RAM address lead to the byte of its number (R38). -/
theorem busTarget_mirror {b : Word} {j : Nat} (hb : b.toNat < 0x800) (hj : j < 4) :
    busTarget (b + BitVec.ofNat 16 (0x800 * j)) = .ram b.toNat := by
  have sum : (b + BitVec.ofNat 16 (0x800 * j)).toNat = b.toNat + 0x800 * j := by
    rw [BitVec.toNat_add, BitVec.toNat_ofNat]
    omega
  rw [busTarget_ram (by omega), sum, Nat.add_mul_mod_self_left, Nat.mod_eq_of_lt hb]

/-- Settles O17: all mirrors lead to one byte, which the write sets and the read finds. -/
theorem ramIsMirroredFourTimes : Obligations.RamIsMirroredFourTimes := by
  intro b j k v s hb hj hk hwf
  refine ⟨_, busWrite_ram (busTarget_mirror hb hj), ?_, fun c hc hne => ?_⟩
  · rw [busRead_ram (busTarget_mirror hb hk), State.setRam_ram, memRead_memWrite_same hwf]
  · rw [peek_ram (busTarget_ram hc), peek_ram (busTarget_ram hc), State.setRam_ram,
      memRead_memWrite_other hwf hne.symm]

/-- Settles O18: the unmapped range of the decoder. -/
theorem unmappedRangeReadsZero : Obligations.UnmappedRangeReadsZero := by
  intro a v s h h'
  have target : busTarget a = .unmapped := busTarget_unmapped h (by omega)
  simp [busRead, busWrite, target]

/-- Settles O19: the PRG window of the decoder, and the mapper's answer. -/
theorem prgWindowIsReadOnly : Obligations.PrgWindowIsReadOnly := by
  intro a v s h
  have target : busTarget a = .prg (a.toNat - 0x8000) := busTarget_prg h
  refine ⟨?_, fun b hb => ?_, fun hnone => ?_⟩
  · simp [busWrite, target]
  · simp [busRead, target, readPrg, hb]
  · simp [busRead, target, readPrg, hnone]

/-- Settles O20: an address of the window and its first repetition lead to the same register. -/
theorem ppuWindowRepeatsEveryEightBytes : Obligations.PpuWindowRepeatsEveryEightBytes := by
  intro a v s h h'
  have first : (BitVec.ofNat 16 (0x2000 + (a.toNat - 0x2000) % 8)).toNat = 0x2000 + (a.toNat - 0x2000) % 8 := by
    rw [BitVec.toNat_ofNat]
    omega
  have target := busTarget_ppu h h'
  have target' : busTarget (BitVec.ofNat 16 (0x2000 + (a.toNat - 0x2000) % 8)) =
      .ppu (ppuRegOf ((a.toNat - 0x2000) % 8)) := by
    rw [busTarget_ppu (by omega) (by omega), first, Nat.add_sub_cancel_left, Nat.mod_mod]
  exact ⟨target, by rw [busRead_ppu target, busRead_ppu target'], by rw [busWrite_ppu target, busWrite_ppu target']⟩

/-- Settles O21: a read leads to the PPU in the window alone, and what it changes there is `ReadLeaves`. -/
theorem busReadsChangeOnlyPpuLatches : Obligations.BusReadsChangeOnlyPpuLatches := by
  intro a v s t h
  refine ⟨fun ha => busRead_pure (busTarget_ne_ppu ha) h, ?_⟩
  obtain ⟨va, hi, buf, n, rfl, -⟩ := busRead_next h
  rfl

/-! ## The reference base mapper -/

/-- A memory made of a list serves the list's bytes inside it. -/
theorem memRead_memOfBytes_lt {bs : List Byte} {off : Nat} (h : off < bs.length) :
    some (memRead (memOfBytes 0 bs) off) = bs[off]? := by
  simp [memRead_memOfBytes, h]

/-- A 32 KB image as it is (R54). -/
theorem prgAt_baseMapper_32K {prg chr : List Byte} {mode : MirrorMode} {off : Nat} (hoff : off ≤ 0x7FFF)
    (hlen : prg.length = 0x8000) : prgAt (baseMapper prg chr mode) off = prg[off]? := by
  rw [← memRead_memOfBytes_lt (by omega)]
  simp [prgAt, baseMapper, rejected, hlen]

/-- A 16 KB image twice (R54). -/
theorem prgAt_baseMapper_16K {prg chr : List Byte} {mode : MirrorMode} {off : Nat} (hoff : off ≤ 0x7FFF)
    (hlen : prg.length = 0x4000) : prgAt (baseMapper prg chr mode) off = prg[off % 0x4000]? := by
  have twice : (prg ++ prg)[off]? = prg[off % 0x4000]? := by
    obtain hlow | hhigh := Nat.lt_or_ge off 0x4000
    · rw [List.getElem?_append_left (by omega), Nat.mod_eq_of_lt hlow]
    · rw [List.getElem?_append_right (by omega), hlen, show off % 0x4000 = off - 0x4000 by omega]
  rw [← twice, ← memRead_memOfBytes_lt (by simp [hlen]; omega)]
  simp [prgAt, baseMapper, rejected, hlen]

/-- An image of another length is rejected as a whole (R54). -/
theorem prgAt_baseMapper_other {prg chr : List Byte} {mode : MirrorMode} {off : Nat} (hoff : off ≤ 0x7FFF)
    (h32 : prg.length ≠ 0x8000) (h16 : prg.length ≠ 0x4000) : prgAt (baseMapper prg chr mode) off = none := by
  simp [prgAt, baseMapper, rejected, h32, h16, hoff]

/-- The CHR image as far as it goes (R54). -/
theorem chrAt_baseMapper {prg chr : List Byte} {mode : MirrorMode} {off : Nat} (hoff : off ≤ 0x1FFF) :
    chrAt (baseMapper prg chr mode) off = chr[off]? := by
  have rejects : rejected off (baseMapper prg chr mode).chrRejects = decide (chr.length ≤ off) := by
    by_cases hlen : chr.length < 0x2000
    · simp [baseMapper, rejected, hlen, hoff]
    · simp [baseMapper, rejected, hlen, show ¬ chr.length ≤ off by omega]
  unfold chrAt
  rw [rejects]
  obtain hin | hout := Nat.lt_or_ge off chr.length
  · rw [← List.getElem?_take_of_lt (show off < 0x2000 by omega), ← memRead_memOfBytes_lt (by simp; omega)]
    simp [Nat.not_le.mpr hin, baseMapper]
  · simp [hout]

/-- Settles O60: the three lengths of PRG, and CHR. -/
theorem baseMapperIsAPassthrough : Obligations.BaseMapperIsAPassthrough :=
  fun _ _ _ _ => ⟨prgAt_baseMapper_32K, prgAt_baseMapper_16K, prgAt_baseMapper_other, chrAt_baseMapper, rfl⟩

/-! ## The frame of RAM -/

/-- From a state with canonical RAM, RAM stays canonical and its byte at `k` stays the same. -/
def RamByteKept (k : Nat) (s t : State) : Prop :=
  Memory.wf 0x800 s.ram = true → Memory.wf 0x800 t.ram = true ∧ memRead t.ram k = memRead s.ram k

section RamFrame

variable {k : Nat} {s t u : State}

/-- Registers, the PPU and counters are no part of RAM. -/
theorem RamByteKept.of_eq (h : t.ram = s.ram) : RamByteKept k s t := fun hs => ⟨h ▸ hs, by rw [h]⟩

theorem RamByteKept.trans (h : RamByteKept k s t) (h' : RamByteKept k t u) : RamByteKept k s u := by
  intro hs
  obtain ⟨ht, hst⟩ := h hs
  obtain ⟨hu, htu⟩ := h' ht
  exact ⟨hu, htu.trans hst⟩

theorem RamByteKept.of_readLeaves (h : ReadLeaves s t) : RamByteKept k s t := by
  obtain ⟨va, hi, buf, n, rfl, -⟩ := h
  exact .of_eq rfl

/-- A write of another byte of RAM. -/
theorem setRam_memWrite_ramByteKept {j : Nat} (hj : j < 0x800) (hne : j ≠ k) (v : Byte) :
    RamByteKept k s (s.setRam (memWrite s.ram j v)) :=
  fun hs => ⟨wf_memWrite hs hj v, memRead_memWrite_other hs hne v⟩

theorem ppuWrite_ram {r : PpuReg} {v : Byte} (h : ppuWrite r v s = .next t) : t.ram = s.ram := by
  cases r with
  | ctrl | mask | oamAddr | oamData | scroll | addr => cases h; rfl
  | status =>
    simp only [ppuWrite, ppuUndefinedWrite] at h
    split at h <;> cases h
    rfl
  | data =>
    simp only [ppuWrite, ppuDataWrite] at h
    split at h <;> cases h <;> rfl

/-- A Bus write changes the RAM byte it leads to alone (R37). -/
theorem busWrite_ramByteKept {a : Word} {v : Byte} (ha : busTarget a ≠ .ram k) (h : busWrite a v s = .next t) :
    RamByteKept k s t := by
  unfold busWrite at h
  split at h
  next i hi =>
    cases h
    exact setRam_memWrite_ramByteKept (busTarget_ram_lt hi) (by rintro rfl; exact ha hi) v
  next => exact .of_eq (ppuWrite_ram h)
  next => cases h; exact .of_eq rfl
  next => cases h; exact .of_eq rfl

/-- A push changes the byte at the stack index alone (R144). -/
theorem push_ramByteKept (h : k ≠ stackIndex s.sp) (v : Byte) : RamByteKept k s (push v s) := by
  have inRam : stackIndex s.sp < 0x800 := by have := s.sp.isLt; unfold stackIndex; omega
  exact (setRam_memWrite_ramByteKept inRam h.symm v).trans (.of_eq rfl)

theorem pushWord_ramByteKept (h : k ≠ stackIndex s.sp) (h' : k ≠ stackIndex (s.sp - 1)) (w : Word) :
    RamByteKept k s (pushWord w s) := (push_ramByteKept h _).trans (push_ramByteKept h' _)

/-- Taking an interrupt changes the three bytes it pushes alone (R149, R188). -/
theorem enterInterrupt_ramByteKept {vector ret : Word} {copy : Byte} (h₀ : k ≠ stackIndex s.sp)
    (h₁ : k ≠ stackIndex (s.sp - 1)) (h₂ : k ≠ stackIndex (s.sp - 1 - 1))
    (h : enterInterrupt vector ret copy s = .next t) : RamByteKept k s t := by
  obtain ⟨w, u, hread, rfl⟩ := enterInterrupt_next h
  have pushed : RamByteKept k s (push copy (pushWord ret s)) :=
    (pushWord_ramByteKept h₀ h₁ ret).trans (push_ramByteKept h₂ copy)
  have entered : RamByteKept k s ((push copy (pushWord ret s)).setP (setFlag .i true s.p)) := pushed.trans (.of_eq rfl)
  exact (entered.trans (.of_readLeaves (read16_next hread))).trans (.of_eq rfl)

variable {i : Instr} {modes : List Mode} {m : Operand}

/-- A store changes the RAM byte that the resolved operand leads to alone (R95). -/
theorem store_ramByteKept {v : Byte} (ha : ∀ ea, storeAddress (.sta m) s = some ea → busTarget ea ≠ .ram k)
    (h : store (resolve m s).opnd v u = .next t) : RamByteKept k u t := by
  obtain ⟨_, rfl⟩ | ⟨ea, hea, hw⟩ := store_next h
  · exact .of_eq rfl
  · exact busWrite_ramByteKept (ha ea (by simp [storeAddress, hea])) hw

theorem loadThen_ramByteKept {f : Byte → State → State} (h : withOperand i modes m (loadThen f) s = .next t)
    (hf : ∀ v u, (f v u).ram = u.ram) : RamByteKept k s t := by
  obtain ⟨_, u, hu, rfl⟩ := withOperand_next h
  obtain ⟨v, w, hload, rfl⟩ := loadThen_next hu
  exact (RamByteKept.of_readLeaves (load_next hload)).trans (.of_eq (hf v w))

theorem storeReg_ramByteKept {reg : State → Byte}
    (ha : ∀ ea, storeAddress (.sta m) s = some ea → busTarget ea ≠ .ram k)
    (h : withOperand i modes m (fun o u => store o (reg u) u) s = .next t) : RamByteKept k s t := by
  obtain ⟨_, u, hu, rfl⟩ := withOperand_next h
  exact (store_ramByteKept ha hu).trans (.of_eq rfl)

theorem modify_ramByteKept {f : ByteOp} (ha : ∀ ea, storeAddress (.sta m) s = some ea → busTarget ea ≠ .ram k)
    (h : withOperand i modes m (modify f) s = .next t) : RamByteKept k s t := by
  obtain ⟨_, x, hx, rfl⟩ := withOperand_next h
  obtain ⟨v, u, w, hload, hstore, rfl⟩ := modify_next hx
  exact ((RamByteKept.of_readLeaves (load_next hload)).trans (store_ramByteKept ha hstore)).trans (.of_eq rfl)

end RamFrame

/-- Every instruction keeps each RAM byte that it neither stores nor pushes to. -/
theorem exec_ramByteKept {i : Instr} {s t : State} {k : Nat} (h : exec i s = .next t)
    (ha : ∀ ea, storeAddress i s = some ea → busTarget ea ≠ .ram k) (hk : k ∉ stackStores i s) :
    RamByteKept k s t := by
  cases i with
  | lda m | ldx m | ldy m | adc m | sbc m | cmp m | cpx m | cpy m | and m | ora m | eor m | bit m =>
    exact loadThen_ramByteKept h fun _ _ => rfl
  | sta m | stx m | sty m => exact storeReg_ramByteKept ha h
  | inc m | dec m | asl m | lsr m | rol m | ror m => exact modify_ramByteKept ha h
  | bcc off | bcs off | beq off | bne off | bmi off | bpl off | bvc off | bvs off =>
    cases h
    split <;> exact .of_eq rfl
  | jmp j =>
    obtain ⟨r, hr, h⟩ := andThen_eq_next.mp h
    cases h
    exact (RamByteKept.of_readLeaves (resolveJump_next hr)).trans (.of_eq rfl)
  | pha | php =>
    cases h
    have hk : k ∉ [stackIndex s.sp] := hk
    exact (push_ramByteKept (by simpa using hk) _).trans (.of_eq rfl)
  | jsr w =>
    cases h
    have hk : k ∉ [stackIndex s.sp, stackIndex (s.sp - 1)] := hk
    obtain ⟨h₀, h₁⟩ : k ≠ stackIndex s.sp ∧ k ≠ stackIndex (s.sp - 1) := by simpa using hk
    exact (pushWord_ramByteKept h₀ h₁ (s.pc - 1)).trans (.of_eq rfl)
  | brk =>
    obtain ⟨u, hu, h⟩ := andThen_eq_next.mp h
    cases h
    have hk : k ∉ [stackIndex s.sp, stackIndex (s.sp - 1), stackIndex (s.sp - 1 - 1)] := hk
    obtain ⟨h₀, h₁, h₂⟩ : k ≠ stackIndex s.sp ∧ k ≠ stackIndex (s.sp - 1) ∧ k ≠ stackIndex (s.sp - 1 - 1) := by
      simpa using hk
    exact (enterInterrupt_ramByteKept h₀ h₁ h₂ hu).trans (.of_eq rfl)
  | unknown op =>
    simp only [exec, execUnknown] at h
    split at h <;> cases h
    exact .of_eq rfl
  | tax | tay | txa | tya | tsx | txs | inx | iny | dex | dey | rts | pla | plp | rti
  | clc | sec | cli | sei | cld | sed | clv | nop =>
    cases h
    exact .of_eq rfl

/-- Settles O15: the frame of RAM under an instruction. -/
theorem ramOutsideTheStoreIsUnchanged : Obligations.RamOutsideTheStoreIsUnchanged :=
  fun _ _ _ _ hwf h ha hk => (exec_ramByteKept h ha hk hwf).2

/-! ## VRAM through the address and data ports -/

/-- The nametables, and under `hw_mirror` their mirror, lead to VRAM (R48, R51). -/
theorem ppuTarget_vram {ps : Params} {a : Word} (mode : MirrorMode) (h : 0x2000 ≤ a.toNat) (h' : a.toNat < 0x3F00)
    (routed : a.toNat < 0x3000 ∨ ps.unrouted = .hwMirror) : ppuTarget ps mode a = .vram (ntIndex mode a) := by
  unfold ppuTarget
  obtain hlow | hmirror := routed
  · simp [Nat.not_lt.mpr h, hlow]
  · simp [Nat.not_lt.mpr h, h', hmirror]

/-- Under `fault` the mirror of the nametables leads nowhere (R51). -/
theorem ppuTarget_unrouted {ps : Params} {a : Word} (mode : MirrorMode) (h : 0x3000 ≤ a.toNat) (h' : a.toNat < 0x3F00)
    (hps : ps.unrouted = .fault) : ppuTarget ps mode a = .unrouted := by
  simp [ppuTarget, Nat.not_lt.mpr h, show ¬ a.toNat < 0x2000 by omega, h', hps]

/-- The PPU with the address `a`. -/
def Ppu.atAddr (u : Ppu) (a : Word) : Ppu := { u with vaddr := a }

/-- The PPU after a PPUDATA write of `v` at an address of VRAM index `i` (R170). -/
def Ppu.stored (u : Ppu) (i : Nat) (v : Byte) : Ppu := Ppu.advance { u with vram := memWrite u.vram i v }

/-- The PPU after a PPUDATA read at an address of VRAM index `i` (R169). -/
def Ppu.buffered (u : Ppu) (i : Nat) : Ppu := Ppu.advance { u with readBuf := memRead u.vram i }

/-- PPUADDR, by its first address in the window (R39). -/
theorem busTarget_addrPort : busTarget 0x2006 = .ppu .addr := by simp [busTarget, ppuRegOf]

/-- PPUDATA, by its first address in the window (R39). -/
theorem busTarget_dataPort : busTarget 0x2007 = .ppu .data := by simp [busTarget, ppuRegOf]

theorem busWrite_addrPort (v : Byte) (s : State) : busWrite 0x2006 v s = .next (s.setPpu (addrWrite v s.ppu)) :=
  busWrite_ppu busTarget_addrPort v s

theorem busWrite_dataPort_vram {s : State} {i : Nat}
    (h : ppuTarget s.params s.mapper.mirror s.ppu.vaddr = .vram i) (v : Byte) :
    busWrite 0x2007 v s = .next (s.setPpu (s.ppu.stored i v)) := by
  rw [busWrite_ppu busTarget_dataPort]
  simp only [ppuWrite, ppuDataWrite, h, Ppu.stored]

theorem busRead_dataPort_vram {s : State} {i : Nat}
    (h : ppuTarget s.params s.mapper.mirror s.ppu.vaddr = .vram i) :
    busRead 0x2007 s = .next (s.ppu.readBuf, s.setPpu (s.ppu.buffered i)) := by
  rw [busRead_ppu busTarget_dataPort]
  simp only [ppuRead, ppuDataRead, h, Ppu.buffered]

theorem busRead_dataPort_unrouted {s : State} (h : ppuTarget s.params s.mapper.mirror s.ppu.vaddr = .unrouted) :
    busRead 0x2007 s = .fault (.ppuUnrouted s.ppu.vaddr) := by
  rw [busRead_ppu busTarget_dataPort]
  simp only [ppuRead, ppuDataRead, h]

/-- Two PPUADDR writes, high byte first, set a 14-bit address and leave the latch where it was (R167). -/
theorem addrWrite_pair {hi lo : Byte} {u : Ppu} (hu : u.addrHiNext = true) (h : (joinBytes hi lo).toNat < 0x4000) :
    addrWrite lo (addrWrite hi u) = u.atAddr (joinBytes hi lo) := by
  have address : (addrWrite lo (addrWrite hi u)).vaddr = joinBytes hi lo := by
    apply BitVec.eq_of_toNat_eq
    simp only [addrWrite, hu, toNat_mask14, toNat_joinBytes, toNat_hiByte, toNat_loByte, if_true, Bool.not_true,
      Bool.false_eq_true, if_false] at h ⊢
    omega
  rw [← address]
  simp [addrWrite, hu, Ppu.atAddr]

/-- The first write completes in `s.setPpu u`, and the second then sets the address, with nothing else changed. -/
theorem busWrite_addrPort_pair {hi lo : Byte} (s : State) {u : Ppu} (hu : u.addrHiNext = true)
    (h : (joinBytes hi lo).toNat < 0x4000) :
    busWrite 0x2006 hi (s.setPpu u) = .next (s.setPpu (addrWrite hi u)) ∧
      busWrite 0x2006 lo (s.setPpu (addrWrite hi u)) = .next (s.setPpu (u.atAddr (joinBytes hi lo))) := by
  refine ⟨busWrite_addrPort hi _, ?_⟩
  rw [← addrWrite_pair hu h]
  exact busWrite_addrPort lo _

/-- The address advanced from a nametable is at most 32 bytes further (R168). -/
theorem toNat_advance_of_lt {u : Ppu} (h : u.vaddr.toNat < 0x3000) :
    u.advance.vaddr.toNat = u.vaddr.toNat + (if u.ctrl.getLsbD 2 then 32 else 1) := by
  have inc : vramIncrement u.ctrl ≤ 0x20 := by unfold vramIncrement; split <;> omega
  rw [Ppu.advance_eq, toNat_advanceVaddr _ (by omega), Nat.mod_eq_of_lt (by omega), vramIncrement]

/-- A PPUDATA read in the nametables or their mirror gives the buffered byte if it is routed, and faults if not. -/
theorem busRead_dataPort_nametables {s : State} (h : 0x2000 ≤ s.ppu.vaddr.toNat) (h' : s.ppu.vaddr.toNat < 0x3F00) :
    (s.ppu.vaddr.toNat < 0x3000 ∨ s.params.unrouted = .hwMirror → ∃ t, busRead 0x2007 s = .next (s.ppu.readBuf, t)) ∧
      (0x3000 ≤ s.ppu.vaddr.toNat → s.params.unrouted = .fault →
        busRead 0x2007 s = .fault (.ppuUnrouted s.ppu.vaddr)) :=
  ⟨fun routed => ⟨_, busRead_dataPort_vram (ppuTarget_vram _ h h' routed)⟩,
    fun mirror hps => busRead_dataPort_unrouted (ppuTarget_unrouted _ mirror h' hps)⟩

/-- The PPU after `v` was written to VRAM index `i` at the address `a`, and one read at `a` filled the buffer. -/
def Ppu.readBack (u : Ppu) (a : Word) (i : Nat) (v : Byte) : Ppu := (((u.atAddr a).stored i v).atAddr a).buffered i

theorem readBuf_readBack {u : Ppu} (h : Memory.wf 0x800 u.vram = true) (a : Word) (i : Nat) (v : Byte) :
    (u.readBack a i v).readBuf = v := memRead_memWrite_same h i v

theorem toNat_vaddr_readBack {a : Word} (h : a.toNat < 0x3000) (u : Ppu) (i : Nat) (v : Byte) :
    (u.readBack a i v).vaddr.toNat = a.toNat + (if u.ctrl.getLsbD 2 then 32 else 1) :=
  toNat_advance_of_lt (u := { ((u.atAddr a).stored i v).atAddr a with readBuf := _ }) h

/-- Settles O33: after the six accesses the buffer holds `v`, and where the advanced address leads decides the rest. -/
theorem vramWrittenThroughThePortsReadsBack : Obligations.VramWrittenThroughThePortsReadsBack := by
  intro hi lo v s hwf hlatch hlow hhigh
  have nametable := ppuTarget_vram (ps := s.params) s.mapper.mirror hlow (by omega) (.inl hhigh)
  generalize ntIndex s.mapper.mirror (joinBytes hi lo) = i at nametable
  have inSpace : (joinBytes hi lo).toNat < 0x4000 := by omega
  obtain ⟨high, low⟩ := busWrite_addrPort_pair s hlatch inSpace
  have write := busWrite_dataPort_vram (s := s.setPpu (s.ppu.atAddr (joinBytes hi lo))) nametable v
  obtain ⟨high', low'⟩ := busWrite_addrPort_pair s (u := (s.ppu.atAddr (joinBytes hi lo)).stored i v) hlatch inSpace
  have read := busRead_dataPort_vram
    (s := s.setPpu (((s.ppu.atAddr (joinBytes hi lo)).stored i v).atAddr (joinBytes hi lo))) nametable
  have advanced := toNat_vaddr_readBack hhigh s.ppu i v
  obtain ⟨served, faulted⟩ :=
    busRead_dataPort_nametables (s := s.setPpu (s.ppu.readBack (joinBytes hi lo) i v))
      (by rw [State.setPpu_ppu, advanced]; omega) (by rw [State.setPpu_ppu, advanced]; split <;> omega)
  rw [State.setPpu_ppu, readBuf_readBack hwf] at served
  exact ⟨_, _, _, _, _, _, _, high, low, write, high', low', read, advanced, served, faulted⟩

end Sys2Proof.Machine
end

section
/-! SUPPORT. The decoder and the encoder: what each form of the dispatch table reads, that the rows of the table (R67)
are the well-formed documented instructions, and that decoding is total. -/

namespace Sys2Proof

/-! ## What a form reads -/

/-- The two halves of a word, joined again (00_scope.md R10). -/
@[simp] theorem joinBytes_halves (w : Word) : joinBytes (hiByte w) (loByte w) = w := by
  apply BitVec.eq_of_toNat_eq
  rw [Machine.toNat_joinBytes, Machine.toNat_hiByte, Machine.toNat_loByte]
  omega

@[simp] theorem hiByte_joinBytes (h l : Byte) : hiByte (joinBytes h l) = h := by
  apply BitVec.eq_of_toNat_eq
  rw [Machine.toNat_hiByte, Machine.toNat_joinBytes]
  omega

@[simp] theorem loByte_joinBytes (h l : Byte) : loByte (joinBytes h l) = l := by
  apply BitVec.eq_of_toNat_eq
  rw [Machine.toNat_loByte, Machine.toNat_joinBytes]
  omega

/-- A mode of the accessor reads exactly the operands of that mode, each from its own bytes. -/
theorem readOperand_eq_some {k : Mode} {bs rest : List Byte} {o : Operand} :
    readOperand k bs = some (o, rest) ↔ o.mode = k ∧ bs = o.bytes ++ rest := by
  constructor
  · intro h
    unfold readOperand at h
    split at h <;> cases h <;> simp [Operand.mode, Operand.bytes]
  · rintro ⟨rfl, rfl⟩
    cases o <;> simp [Operand.mode, Operand.bytes, readOperand]

/-- The modes of JMP read exactly the jump operands of that mode, each from its own bytes. -/
theorem readJump_eq_some {k : Mode} {bs rest : List Byte} {j : JumpOperand} :
    readJump k bs = some (j, rest) ↔ j.mode = k ∧ bs = j.bytes ++ rest := by
  constructor
  · intro h
    unfold readJump at h
    split at h <;> cases h <;> simp [JumpOperand.mode, JumpOperand.bytes]
  · rintro ⟨rfl, rfl⟩
    cases j <;> simp [JumpOperand.mode, JumpOperand.bytes, readJump]

/-- The form reads the instruction from exactly these operand bytes. -/
inductive Form.Reads : Form → Instr → List Byte → Prop
  | implied (i : Instr) : Reads (.implied i) i []
  | operand {k : Mode} (f : Operand → Instr) {o : Operand} (mode : o.mode = k) : Reads (.operand k f) (f o) o.bytes
  | jump {k : Mode} {j : JumpOperand} (mode : j.mode = k) : Reads (.jump k) (.jmp j) j.bytes
  | call (w : Word) : Reads .call (.jsr w) [loByte w, hiByte w]
  | branch (f : Byte → Instr) (b : Byte) : Reads (.branch f) (f b) [b]

/-- `Form.Reads` is what the decoder's `Form.read` does, with the bytes it leaves. -/
theorem Form.read_eq_some {F : Form} {bs rest : List Byte} {i : Instr} :
    F.read bs = some (i, rest) ↔ ∃ ops, F.Reads i ops ∧ bs = ops ++ rest := by
  constructor
  · intro h
    unfold Form.read at h
    split at h
    next => cases h; exact ⟨[], .implied _, rfl⟩
    next k f =>
      obtain ⟨⟨o, tail⟩, hread, h⟩ := Option.map_eq_some_iff.mp h
      cases h
      obtain ⟨hmode, rfl⟩ := readOperand_eq_some.mp hread
      exact ⟨o.bytes, .operand f hmode, rfl⟩
    next k =>
      obtain ⟨⟨j, tail⟩, hread, h⟩ := Option.map_eq_some_iff.mp h
      cases h
      obtain ⟨hmode, rfl⟩ := readJump_eq_some.mp hread
      exact ⟨j.bytes, .jump hmode, rfl⟩
    next l h' bs =>
      cases h
      exact ⟨[l, h'], by simpa using Reads.call (joinBytes h' l), rfl⟩
    next f b bs => cases h; exact ⟨[b], .branch f b, rfl⟩
    next => cases h
  · rintro ⟨ops, hreads, rfl⟩
    cases hreads with
    | implied => rfl
    | operand f hmode => simp [Form.read, readOperand_eq_some.mpr ⟨hmode, rfl⟩]
    | jump hmode => simp [Form.read, readJump_eq_some.mpr ⟨hmode, rfl⟩]
    | call w => simp [Form.read]
    | branch f b => rfl

/-! ## Every documented instruction has a row of the dispatch table -/

theorem findRow_append (op : Byte) (t t' : List Row) : findRow op (t ++ t') = (findRow op t).or (findRow op t') := by
  induction t with
  | nil => rfl
  | cons r t ih =>
    rw [List.cons_append, findRow, findRow, ih]
    split <;> rfl

/-- The table is searched part by part: no row stands deep in its part, so a concrete search closes by `rfl`. -/
theorem lookupRow_eq (op : Byte) : lookupRow op =
    (findRow op dispatchRows01).or ((findRow op dispatchRows23).or ((findRow op dispatchRows45).or
      ((findRow op dispatchRows67).or ((findRow op dispatchRows89).or ((findRow op dispatchRowsAB).or
        ((findRow op dispatchRowsCD).or (findRow op dispatchRowsEF))))))) := by
  simp only [lookupRow, dispatchTable, List.append_assoc, findRow_append]

/-- A documented instruction's opcode has a row, and the row's form reads the instruction from its operand bytes. -/
theorem exists_row_reads {i : Instr} (hi : wellFormed i = true) (documented : ∀ op, i ≠ .unknown op) :
    ∃ op r, opcodeOf i = some op ∧ lookupRow op = some r ∧ r.form.Reads i (operandBytes i) := by
  cases i with
  | unknown op => exact absurd rfl (documented op)
  | lda m | ldx m | ldy m | sta m | stx m | sty m | adc m | sbc m | cmp m | cpx m | cpy m | and m | ora m | eor m
  | bit m | inc m | dec m | asl m | lsr m | rol m | ror m =>
    cases m <;> cases hi <;> exact ⟨_, _, rfl, (lookupRow_eq _).trans rfl, .operand _ rfl⟩
  | jmp j => cases j <;> exact ⟨_, _, rfl, (lookupRow_eq _).trans rfl, .jump rfl⟩
  | jsr w => exact ⟨_, _, rfl, (lookupRow_eq _).trans rfl, .call w⟩
  | bcc off | bcs off | beq off | bne off | bmi off | bpl off | bvc off | bvs off =>
    exact ⟨_, _, rfl, (lookupRow_eq _).trans rfl, .branch _ off⟩
  | tax | tay | txa | tya | tsx | txs | inx | iny | dex | dey | rts | pha | pla | php | plp | brk | rti
  | clc | sec | cli | sei | cld | sed | clv | nop => exact ⟨_, _, rfl, (lookupRow_eq _).trans rfl, .implied _⟩

/-! ## Every row of the dispatch table is sound -/

/-- Whatever the row reads is well formed and is encoded as the row's opcode and the bytes read. -/
def Row.Sound (r : Row) : Prop :=
  ∀ i ops, r.form.Reads i ops → wellFormed i = true ∧ opcodeOf i = some r.opcode ∧ operandBytes i = ops

theorem Row.sound_implied {op : Byte} {i : Instr} {n : Nat} (hi : wellFormed i = true) (hop : opcodeOf i = some op)
    (hbytes : operandBytes i = []) : Row.Sound ⟨op, .implied i, n⟩ := by
  intro j ops h
  cases h
  exact ⟨hi, hop, hbytes⟩

/-- The constructor `f` is a mnemonic whose operand forms and opcodes by mode are the given ones. -/
structure IsMnemonic (f : Operand → Instr) (modes : List Mode) (opcodes : List (Mode × Byte)) : Prop where
  wellFormed_eq : ∀ o, wellFormed (f o) = decide (o.mode ∈ modes)
  opcodeOf_eq : ∀ o, opcodeOf (f o) = opcodeIn o.mode opcodes
  operandBytes_eq : ∀ o, operandBytes (f o) = o.bytes

theorem Row.sound_operand {op : Byte} {k : Mode} {f : Operand → Instr} {n : Nat} {modes : List Mode}
    {opcodes : List (Mode × Byte)} (hf : IsMnemonic f modes opcodes) (hk : k ∈ modes)
    (hop : opcodeIn k opcodes = some op) : Row.Sound ⟨op, .operand k f, n⟩ := by
  intro i ops h
  cases h with
  | operand _ mode => simp [hf.wellFormed_eq, hf.opcodeOf_eq, hf.operandBytes_eq, mode, hk, hop]

theorem Row.sound_branch {op : Byte} {f : Byte → Instr} {n : Nat} (hf : ∀ b, wellFormed (f b) = true)
    (hop : ∀ b, opcodeOf (f b) = some op) (hbytes : ∀ b, operandBytes (f b) = [b]) : Row.Sound ⟨op, .branch f, n⟩ := by
  intro i ops h
  cases h with
  | branch _ b => exact ⟨hf b, hop b, hbytes b⟩

theorem Row.sound_call {n : Nat} : Row.Sound ⟨0x20, .call, n⟩ := by
  intro i ops h
  cases h
  exact ⟨rfl, rfl, rfl⟩

theorem Row.sound_jump {op : Byte} {k : Mode} {n : Nat} (hop : opcodeIn k [(.abj, 0x4C), (.ind, 0x6C)] = some op) :
    Row.Sound ⟨op, .jump k, n⟩ := by
  intro i ops h
  cases h with
  | jump mode => exact ⟨rfl, by rw [opcodeOf, mode, hop], rfl⟩

/-- Each row by the lemma of its form: the columns of R67 against the constructors, opcode by opcode. -/
theorem dispatchTable_sound : ∀ r ∈ dispatchTable, r.Sound := by
  simp only [dispatchTable, List.forall_mem_append, dispatchRows01, dispatchRows23, dispatchRows45, dispatchRows67,
    dispatchRows89, dispatchRowsAB, dispatchRowsCD, dispatchRowsEF, List.forall_mem_cons, List.not_mem_nil,
    false_implies, implies_true, and_true]
  and_intros
  all_goals first
    | exact Row.sound_implied rfl rfl rfl
    | exact Row.sound_operand ⟨fun _ => rfl, fun _ => rfl, fun _ => rfl⟩ (by decide) rfl
    | exact Row.sound_branch (fun _ => rfl) (fun _ => rfl) (fun _ => rfl)
    | exact Row.sound_jump rfl
    | exact Row.sound_call

/-! ## The table's domain -/

theorem findRow_eq_some {op : Byte} {t : List Row} {r : Row} (h : findRow op t = some r) : r ∈ t ∧ r.opcode = op := by
  induction t with
  | nil => cases h
  | cons r' t ih =>
    rw [findRow] at h
    split at h
    case isTrue hop => cases h; exact ⟨List.mem_cons_self, hop⟩
    case isFalse =>
      obtain ⟨hmem, hop⟩ := ih h
      exact ⟨List.mem_cons_of_mem _ hmem, hop⟩

/-- What the row of an opcode reads is well formed and is encoded as that opcode and the bytes read. -/
theorem lookupRow_sound {op : Byte} {r : Row} {i : Instr} {ops : List Byte} (h : lookupRow op = some r)
    (hreads : r.form.Reads i ops) : wellFormed i = true ∧ opcodeOf i = some op ∧ operandBytes i = ops := by
  obtain ⟨hmem, rfl⟩ := findRow_eq_some h
  exact dispatchTable_sound r hmem i ops hreads

theorem isNone_lookupRow_iff :
    ∀ op : Fin 256, (lookupRow (.ofFin op)).isNone = true ↔ BitVec.ofFin op ∈ unknownOpcodes := by
  decide +kernel

/-- The opcodes with no row are those of R68. -/
theorem lookupRow_eq_none_iff {op : Byte} : lookupRow op = none ↔ op ∈ unknownOpcodes := by
  rw [← Option.isNone_iff_eq_none]
  exact isNone_lookupRow_iff op.toFin

/-! ## What the decoder does -/

theorem opcodeOf_unknown {op : Byte} (h : op ∈ unknownOpcodes) : opcodeOf (.unknown op) = some op := if_pos h

theorem wellFormed_unknown_iff {op : Byte} : wellFormed (.unknown op) = true ↔ op ∈ unknownOpcodes := by
  simp [wellFormed]

/-- Everything the decoder accepts: an opcode with no row alone, or a row's opcode with what its form reads. -/
theorem decode_cons_eq_ok {op : Byte} {bs rest : List Byte} {i : Instr} : decode (op :: bs) = .ok i rest ↔
    lookupRow op = none ∧ i = .unknown op ∧ bs = rest ∨
      ∃ r ops, lookupRow op = some r ∧ r.form.Reads i ops ∧ bs = ops ++ rest := by
  rw [decode]
  cases hrow : lookupRow op with
  | none => simp [eq_comm]
  | some r =>
    rcases hread : r.form.read bs with _ | ⟨j, tail⟩ <;> simp [hread, ← Form.read_eq_some]

theorem encode_eq {op : Byte} {i : Instr} (h : opcodeOf i = some op) : encode i = op :: operandBytes i := by
  rw [encode, h]

/-- Settles O1: an unknown opcode stands alone, and a documented one has a row, whose form reads the operand bytes. -/
theorem decodeOfEncodeIsTheInstruction : Obligations.DecodeOfEncodeIsTheInstruction := by
  intro i rest hi
  by_cases hu : ∃ op, i = .unknown op
  · obtain ⟨op, rfl⟩ := hu
    have hmem : op ∈ unknownOpcodes := wellFormed_unknown_iff.mp hi
    rw [encode_eq (opcodeOf_unknown hmem)]
    exact decode_cons_eq_ok.mpr (.inl ⟨lookupRow_eq_none_iff.mpr hmem, rfl, rfl⟩)
  · obtain ⟨op, r, hop, hrow, hreads⟩ := exists_row_reads hi (not_exists.mp hu)
    rw [encode_eq hop]
    exact decode_cons_eq_ok.mpr (.inr ⟨r, _, hrow, hreads, rfl⟩)

/-- Settles O2: the opcodes with no row are those of R68, and every row is sound. -/
theorem decodedBytesAreTheEncoding : Obligations.DecodedBytesAreTheEncoding := by
  intro bytes i rest h
  cases bytes with
  | nil => cases h
  | cons op bs =>
    obtain ⟨hrow, rfl, rfl⟩ | ⟨r, ops, hrow, hreads, rfl⟩ := decode_cons_eq_ok.mp h
    · have hmem := lookupRow_eq_none_iff.mp hrow
      exact ⟨wellFormed_unknown_iff.mpr hmem, by rw [encode_eq (opcodeOf_unknown hmem)]; rfl⟩
    · obtain ⟨hi, hop, rfl⟩ := lookupRow_sound hrow hreads
      exact ⟨hi, by rw [encode_eq hop]; rfl⟩

/-! ## Decoding is total -/

/-- The modes of the operand accessor (41_addressing.md R94). -/
def accessorModes : List Mode := [.acc, .imm, .zp0, .zpx, .zpy, .abs, .abx, .aby, .izx, .izy]

theorem exists_readOperand {k : Mode} {bs : List Byte} (hk : k ∈ accessorModes) (h : k.operandBytes ≤ bs.length) :
    ∃ o rest, readOperand k bs = some (o, rest) := by
  cases k with
  | imp | abj | ind | rel => simp [accessorModes] at hk
  | acc => exact ⟨_, _, rfl⟩
  | imm | zp0 | zpx | zpy | izx | izy =>
    match bs, h with
    | b :: bs, _ => exact ⟨_, _, rfl⟩
  | abs | abx | aby =>
    match bs, h with
    | l :: h :: bs, _ => exact ⟨_, _, rfl⟩

theorem exists_readJump {k : Mode} {bs : List Byte} (hk : k = .abj ∨ k = .ind) (h : 2 ≤ bs.length) :
    ∃ j rest, readJump k bs = some (j, rest) := by
  match bs, h with
  | l :: h :: bs, _ => obtain rfl | rfl := hk <;> exact ⟨_, _, rfl⟩

/-- The mode is one that the form's operand can have. -/
def Form.modeExists : Form → Bool
  | .operand k _ => k ∈ accessorModes
  | .jump k => k = .abj ∨ k = .ind
  | .implied _ | .call | .branch _ => true

theorem dispatchTable_modeExists : ∀ r ∈ dispatchTable, r.form.modeExists = true := by decide +kernel

theorem Form.exists_read {F : Form} {bs : List Byte} (hF : F.modeExists = true) (h : F.mode.operandBytes ≤ bs.length) :
    ∃ i rest, F.read bs = some (i, rest) := by
  cases F with
  | implied i => exact ⟨i, bs, rfl⟩
  | operand k f =>
    obtain ⟨o, rest, hread⟩ := exists_readOperand (of_decide_eq_true hF) h
    exact ⟨f o, rest, by rw [Form.read, hread]; rfl⟩
  | jump k =>
    have hk := of_decide_eq_true hF
    obtain ⟨j, rest, hread⟩ := exists_readJump hk (by obtain rfl | rfl := hk <;> exact h)
    exact ⟨.jmp j, rest, by rw [Form.read, hread]; rfl⟩
  | call =>
    match bs, h with
    | l :: h :: bs, _ => exact ⟨_, _, rfl⟩
  | branch f =>
    match bs, h with
    | b :: bs, _ => exact ⟨_, _, rfl⟩

theorem operandBytesOf_le_two (op : Byte) : operandBytesOf op ≤ 2 := by
  unfold operandBytesOf
  split
  next r _ => cases r.form.mode <;> decide
  next => decide

/-- An opcode followed by as many operand bytes as its mode consumes decodes. -/
theorem exists_decode {op : Byte} {bs : List Byte} (h : operandBytesOf op ≤ bs.length) :
    ∃ i rest, decode (op :: bs) = .ok i rest := by
  rw [decode]
  rw [operandBytesOf] at h
  cases hrow : lookupRow op with
  | none => exact ⟨_, _, rfl⟩
  | some r =>
    rw [hrow] at h
    obtain ⟨i, rest, hread⟩ := Form.exists_read (dispatchTable_modeExists r (findRow_eq_some hrow).1) h
    exact ⟨i, rest, by simp [hread]⟩

/-- Settles O3: two operand bytes are enough, what they decode to is well formed by O2, and R68 lists the rest. -/
theorem decodingIsTotal : Obligations.DecodingIsTotal := by
  intro op b₁ b₂ rest
  obtain ⟨i, tail, hdecode⟩ := exists_decode (op := op) (bs := b₁ :: b₂ :: rest)
    ((operandBytesOf_le_two op).trans (by simp))
  obtain ⟨hi, -⟩ := decodedBytesAreTheEncoding _ _ _ hdecode
  refine ⟨i, tail, hdecode, hi, ⟨fun hop => ?_, ?_⟩, lookupRow_eq_none_iff.symm⟩
  · rw [decode, lookupRow_eq_none_iff.mpr hop] at hdecode
    cases hdecode
    rfl
  · rintro rfl
    exact wellFormed_unknown_iff.mp hi

/-- Settles O4, word by word. -/
theorem sampleWordsDecode : Obligations.SampleWordsDecode := by
  unfold Obligations.SampleWordsDecode
  decide

end Sys2Proof
end

section
/-! SUPPORT. What decoded instructions do: none is refused, and each reports its base count and its penalties. -/

namespace Sys2Proof.Machine

/-! ## No decoded instruction is refused -/

theorem andThen_ne_refused {α β : Type} {r : Result α} {f : α → Result β} {e : Refusal} (hr : r ≠ .refused e)
    (hf : ∀ x, r = .next x → f x ≠ .refused e) : andThen r f ≠ .refused e := by
  intro h
  obtain h | ⟨x, hx, h⟩ := andThen_eq_refused.mp h
  · exact hr h
  · exact hf x hx h

section Shapes

variable {i : Instr} {modes : List Mode} {m : Operand} {o : Opnd} {v : Byte} {s : State} {e : Refusal}

/-- Only a store to an immediate operand is refused (R95). -/
theorem store_not_refused (ho : ∀ w, o ≠ .imm w) : store o v s ≠ .refused e := by
  cases o with
  | acc => exact nofun
  | imm w => exact absurd rfl (ho w)
  | addr ea => exact busWrite_not_refused

/-- A mnemonic with no immediate form never resolves its operand to an immediate byte. -/
theorem resolve_opnd_ne_imm (hmodes : .imm ∉ modes) (hm : m.mode ∈ modes) (w : Byte) : (resolve m s).opnd ≠ .imm w := by
  cases m with
  | imm => exact absurd hm hmodes
  | _ => exact nofun

theorem withOperand_not_refused {handler : Opnd → State → Result State} (hm : m.mode ∈ modes)
    (h : handler (resolve m s).opnd s ≠ .refused e) : withOperand i modes m handler s ≠ .refused e := by
  rw [withOperand, if_pos hm]
  exact andThen_ne_refused h nofun

theorem loadThen_not_refused {f : Byte → State → State} (hm : m.mode ∈ modes) :
    withOperand i modes m (loadThen f) s ≠ .refused e :=
  withOperand_not_refused hm (andThen_ne_refused load_not_refused nofun)

theorem storeReg_not_refused {reg : State → Byte} (hmodes : .imm ∉ modes) (hm : m.mode ∈ modes) :
    withOperand i modes m (fun o u => store o (reg u) u) s ≠ .refused e :=
  withOperand_not_refused hm (store_not_refused (resolve_opnd_ne_imm hmodes hm))

theorem modify_not_refused {f : ByteOp} (hmodes : .imm ∉ modes) (hm : m.mode ∈ modes) :
    withOperand i modes m (modify f) s ≠ .refused e :=
  withOperand_not_refused hm <| andThen_ne_refused load_not_refused fun _ _ =>
    andThen_ne_refused (store_not_refused (resolve_opnd_ne_imm hmodes hm)) nofun

end Shapes

theorem read16_not_refused {a : Word} {s : State} {e : Refusal} : read16 a s ≠ .refused e :=
  andThen_ne_refused busRead_not_refused fun _ _ => andThen_ne_refused busRead_not_refused nofun

theorem enterInterrupt_not_refused {vector ret : Word} {copy : Byte} {s : State} {e : Refusal} :
    enterInterrupt vector ret copy s ≠ .refused e := andThen_ne_refused read16_not_refused nofun

theorem resolveJump_not_refused {j : JumpOperand} {s : State} {e : Refusal} : resolveJump j s ≠ .refused e := by
  cases j with
  | abj w => exact nofun
  | ind ptr => exact andThen_ne_refused busRead_not_refused fun _ _ => andThen_ne_refused busRead_not_refused nofun

theorem exec_not_refused {i : Instr} {s : State} {e : Refusal} (hi : wellFormed i = true) : exec i s ≠ .refused e := by
  cases i with
  | lda m | ldx m | ldy m | adc m | sbc m | cmp m | cpx m | cpy m | and m | ora m | eor m | bit m =>
    exact loadThen_not_refused (of_decide_eq_true hi)
  | sta m | stx m | sty m =>
    exact storeReg_not_refused (by decide) (of_decide_eq_true hi)
  | inc m | dec m | asl m | lsr m | rol m | ror m =>
    exact modify_not_refused (by decide) (of_decide_eq_true hi)
  | jmp j => exact andThen_ne_refused resolveJump_not_refused nofun
  | brk => exact andThen_ne_refused enterInterrupt_not_refused nofun
  | unknown op =>
    rw [exec, execUnknown, if_pos (wellFormed_unknown_iff.mp hi)]
    exact nofun
  | bcc off | bcs off | beq off | bne off | bmi off | bpl off | bvc off | bvs off
  | tax | tay | txa | tya | tsx | txs | inx | iny | dex | dey | jsr w | rts | pha | pla | php | plp | rti
  | clc | sec | cli | sei | cld | sed | clv | nop => exact nofun

theorem fetchByte_not_refused {s : State} {e : Refusal} : fetchByte s ≠ .refused e :=
  andThen_ne_refused busRead_not_refused nofun

theorem fetchBytes_not_refused {n : Nat} {s : State} {e : Refusal} : fetchBytes n s ≠ .refused e := by
  induction n generalizing s with
  | zero => exact nofun
  | succ n ih => exact andThen_ne_refused fetchByte_not_refused fun _ _ => andThen_ne_refused ih nofun

theorem length_of_fetchBytes {n : Nat} {bs : List Byte} {s t : State} (h : fetchBytes n s = .next (bs, t)) :
    bs.length = n := by
  induction n generalizing bs s with
  | zero => cases h; rfl
  | succ n ih =>
    obtain ⟨r, -, h⟩ := andThen_eq_next.mp h
    obtain ⟨q, hq, h⟩ := andThen_eq_next.mp h
    cases h
    rw [List.length_cons, ih hq]

/-- The fetch takes as many bytes as the opcode's mode consumes, so the decoder accepts them. -/
theorem fetch_not_refused {s : State} {e : Refusal} : fetch s ≠ .refused e := by
  refine andThen_ne_refused fetchByte_not_refused fun r _ => andThen_ne_refused fetchBytes_not_refused fun q hq => ?_
  obtain ⟨i, rest, hdecode⟩ := exists_decode (length_of_fetchBytes hq).ge
  rw [hdecode]
  exact nofun

/-- What is fetched was decoded, so it is a row of the table. -/
theorem wellFormed_of_fetch {i : Instr} {s t : State} (h : fetch s = .next (i, t)) : wellFormed i = true := by
  obtain ⟨r, -, h⟩ := andThen_eq_next.mp h
  obtain ⟨q, -, h⟩ := andThen_eq_next.mp h
  split at h
  next j rest hdecode => cases h; exact (decodedBytesAreTheEncoding _ _ _ hdecode).1
  next => cases h

theorem step_not_refused {s : State} {e : Refusal} : step s ≠ .refused e := by
  unfold step
  split
  · exact andThen_ne_refused fetch_not_refused fun _ hr => exec_not_refused (wellFormed_of_fetch hr)
  · exact nofun

/-- Settles O10: a row has its meaning, and by O2 the fetch gives only rows. -/
theorem noDecodedInstructionIsRefused : Obligations.NoDecodedInstructionIsRefused :=
  ⟨fun _ _ _ hi => exec_not_refused hi, fun _ _ => step_not_refused⟩

/-! ## The cycle count -/

/-- Every instruction with an operand is the shape `withOperand`, at the modes of its mnemonic. -/
theorem exec_eq_withOperand {i : Instr} {m : Operand} (hm : operandOf i = some m) (s : State) :
    ∃ modes handler, exec i s = withOperand i modes m handler s ∧ wellFormed i = decide (m.mode ∈ modes) := by
  cases i <;> cases hm
  case sta => exact ⟨_, fun o t => store o t.a t, rfl, rfl⟩
  case stx => exact ⟨_, fun o t => store o t.x t, rfl, rfl⟩
  case sty => exact ⟨_, fun o t => store o t.y t, rfl, rfl⟩
  all_goals exact ⟨_, _, rfl, rfl⟩

theorem exec_cycles_of_operand {i : Instr} {m : Operand} {s t : State} (hm : operandOf i = some m)
    (h : exec i s = .next t) : t.cycles = cost i m s := by
  have params := (exec_setupKept h).params
  obtain ⟨modes, handler, hexec, hi⟩ := exec_eq_withOperand hm s
  obtain ⟨hmode, u, -, rfl⟩ := withOperand_next (hexec ▸ h)
  rw [finish_eq, State.setCycles_params] at params
  rw [finish_eq, State.setCycles_cycles, params, pagePenalty_eq hm,
    baseCycles_eq_countOf hm (by simp [hi, hmode]), cost, add_zero]

/-- The decoder's base count of an instruction without an operand of the accessor is its class's (R67, R77). -/
theorem baseCycles_eq_countOf_of_none {i : Instr} (hm : operandOf i = none) (hi : wellFormed i = true) :
    baseCycles i = countOf i := by
  cases i <;> cases hm
  case unknown op =>
    have hop := wellFormed_unknown_iff.mp hi
    simp [baseCycles, opcodeOf_unknown hop, baseCyclesOf, lookupRow_eq_none_iff.mpr hop, countOf]
  case jmp j => cases j <;> rfl
  all_goals rfl

/-- `i` transfers control and is no jump, call, return or BRK: it is one of the eight branches (R133 to R140). -/
def IsBranch (i : Instr) : Prop :=
  transfersControl i = true ∧ (∀ w, i ≠ .jsr w) ∧ (∀ j, i ≠ .jmp j) ∧ i ≠ .rts ∧ i ≠ .brk ∧ i ≠ .rti

theorem branchExtra_le_two (cond : Bool) (off : Byte) (s : State) : branchExtra cond off s ≤ 2 := by
  unfold branchExtra
  split
  · split <;> decide
  · decide

/-- An instruction without an operand of the accessor ends in `finish` with no page crossed, and only a branch adds to
its base count. -/
theorem exec_finish_of_none {i : Instr} {s t : State} (hm : operandOf i = none) (h : exec i s = .next t) :
    wellFormed i = true ∧ ∃ extra u, t = finish i false extra u ∧ (extra = 0 ∨ IsBranch i ∧ extra ≤ 2) := by
  cases i <;> cases hm
  case bcc | bcs | beq | bne | bmi | bpl | bvc | bvs =>
    cases h
    exact ⟨rfl, _, _, rfl, .inr ⟨⟨rfl, nofun, nofun, nofun, nofun, nofun⟩, branchExtra_le_two _ _ s⟩⟩
  case jmp =>
    obtain ⟨r, -, h⟩ := andThen_eq_next.mp h
    cases h
    exact ⟨rfl, 0, _, rfl, .inl rfl⟩
  case brk =>
    obtain ⟨u, -, h⟩ := andThen_eq_next.mp h
    cases h
    exact ⟨rfl, 0, u, rfl, .inl rfl⟩
  case unknown op =>
    rw [exec, execUnknown] at h
    split at h
    case isTrue hop => cases h; exact ⟨wellFormed_unknown_iff.mpr hop, 0, s, rfl, .inl rfl⟩
    case isFalse => cases h
  all_goals
    cases h
    exact ⟨rfl, 0, _, rfl, .inl rfl⟩

theorem exec_cycles_of_none {i : Instr} {s t : State} (hm : operandOf i = none) (h : exec i s = .next t) :
    t.cycles = countOf i ∨ IsBranch i ∧ (t.cycles = countOf i + 1 ∨ t.cycles = countOf i + 2) := by
  obtain ⟨hi, extra, u, rfl, hextra⟩ := exec_finish_of_none hm h
  rw [finish_eq, State.setCycles_cycles, pagePenalty_false, baseCycles_eq_countOf_of_none hm hi]
  obtain rfl | ⟨hbranch, hle⟩ := hextra
  · exact .inl rfl
  · interval_cases extra
    · exact .inl rfl
    · exact .inr ⟨hbranch, .inl rfl⟩
    · exact .inr ⟨hbranch, .inr rfl⟩

/-- An instruction of a class has the count that its mode has in the class's column of R67. -/
theorem countOf_eq_of_class {i : Instr} {k : Mode} {n : Nat} {members : List Instr} {column : List (Mode × Nat)}
    {count : Mode → Nat} (hmembers : ∀ i ∈ members, countOf i = count k) (hcolumn : ∀ row ∈ column, count row.1 = row.2)
    (h : i ∈ members ∧ (k, n) ∈ column) : countOf i = n := (hmembers i h.1).trans (hcolumn _ h.2)

/-- Settles O56: with an operand by the shape `withOperand`, without one by the shape `finish`. -/
theorem cyclesAreBasePlusPenalties : Obligations.CyclesAreBasePlusPenalties := by
  intro i s t h
  refine ⟨fun m n hm hn => ?_, fun m hm => exec_cycles_of_operand hm h, fun hm => ?_⟩
  · have count : countOf i = n := by
      obtain read | stored | modified := hn
      · exact countOf_eq_of_class (count := readCount) (by simp [countOf]) (by decide) read
      · exact countOf_eq_of_class (count := storeCount) (by simp [countOf]) (by decide) stored
      · exact countOf_eq_of_class (count := modifyCount) (by simp [countOf]) (by decide) modified
    rw [exec_cycles_of_operand hm h, cost, count]
  · obtain hbase | ⟨⟨hcontrol, hjsr, hjmp, hrts, hbrk, hrti⟩, hextra⟩ := exec_cycles_of_none hm h
    · exact .inl hbase
    · exact .inr ⟨hcontrol, hjsr, hjmp, hrts, hbrk, hrti, hextra⟩

end Sys2Proof.Machine
end

section
/-! SUPPORT. One step of the CPU: the fetch of the instruction that stands at PC, and the faults a step can end in. -/

namespace Sys2Proof.Machine

/-! ## The fetch of the bytes at PC -/

/-- A form reads as many operand bytes as its mode consumes (30_encoding.md R62). -/
theorem length_of_reads {F : Form} {i : Instr} {ops : List Byte} (h : F.Reads i ops) :
    ops.length = F.mode.operandBytes := by
  cases h with
  | implied | call | branch => rfl
  | @operand k f o mode => subst mode; cases o <;> rfl
  | @jump k j mode => subst mode; cases j <;> rfl

/-- A well-formed instruction is encoded as an opcode and the operand bytes that the fetch takes for it (R61, R64). -/
theorem exists_encode_eq {i : Instr} (hi : wellFormed i = true) :
    ∃ op, encode i = op :: operandBytes i ∧ (operandBytes i).length = operandBytesOf op := by
  by_cases hu : ∃ op, i = .unknown op
  · obtain ⟨op, rfl⟩ := hu
    have hmem := wellFormed_unknown_iff.mp hi
    exact ⟨op, encode_eq (opcodeOf_unknown hmem), by rw [operandBytesOf, lookupRow_eq_none_iff.mpr hmem]; rfl⟩
  · obtain ⟨op, r, hop, hrow, hreads⟩ := exists_row_reads hi (not_exists.mp hu)
    exact ⟨op, encode_eq hop, by rw [length_of_reads hreads, operandBytesOf, hrow]⟩

theorem succ_add_ofNat (a : Word) (n : Nat) : a + 1 + BitVec.ofNat 16 n = a + BitVec.ofNat 16 (n + 1) := by
  rw [BitVec.ofNat_add, add_assoc, add_comm (1 : Word)]
  rfl

/-- The bytes from address `a` on (u16 wrap) are the given ones, each readable without an effect. -/
def BytesAt (a : Word) (bs : List Byte) (s : State) : Prop :=
  ∀ (k : Nat) (b : Byte), bs[k]? = some b → peek (a + BitVec.ofNat 16 k) s = some b

theorem BytesAt.head {a : Word} {b : Byte} {bs : List Byte} {s : State} (h : BytesAt a (b :: bs) s) :
    peek a s = some b := by simpa using h 0 b rfl

/-- Where PC stands does not matter to a `peek`: the tail is at hand after the head is fetched. -/
theorem BytesAt.tail {a : Word} {b : Byte} {bs : List Byte} {s : State} (h : BytesAt a (b :: bs) s) :
    BytesAt (a + 1) bs (s.setPc (a + 1)) := by
  intro k c hk
  rw [succ_add_ofNat]
  exact h (k + 1) c hk

theorem fetchByte_of_peek {b : Byte} {s : State} (h : peek s.pc s = some b) :
    fetchByte s = .next (b, s.setPc (s.pc + 1)) := by
  rw [fetchByte, busRead_of_peek h]
  rfl

/-- Fetching bytes that stand at PC moves PC past them and changes nothing else (R59, R74). -/
theorem fetchBytes_of_bytesAt {bs : List Byte} {s : State} (h : BytesAt s.pc bs s) :
    fetchBytes bs.length s = .next (bs, s.setPc (s.pc + BitVec.ofNat 16 bs.length)) := by
  induction bs generalizing s with
  | nil => simp [fetchBytes, State.setPc]
  | cons b bs ih =>
    have rest := ih (s := s.setPc (s.pc + 1)) h.tail
    rw [List.length_cons, fetchBytes, fetchByte_of_peek h.head, andThen_next, rest, ← succ_add_ofNat]
    rfl

/-- Fetching at the bytes of a well-formed instruction gives that instruction, by O1. -/
theorem fetch_of_bytesAt {i : Instr} {s : State} (hi : wellFormed i = true) (h : BytesAt s.pc (encode i) s) :
    fetch s = .next (i, s.setPc (s.pc + BitVec.ofNat 16 (encode i).length)) := by
  obtain ⟨op, hencode, hlength⟩ := exists_encode_eq hi
  have decoded : decode (op :: operandBytes i) = .ok i [] := by
    simpa [hencode] using decodeOfEncodeIsTheInstruction i [] hi
  rw [hencode] at h ⊢
  have operands := fetchBytes_of_bytesAt (s := s.setPc (s.pc + 1)) h.tail
  rw [hlength] at operands
  rw [fetch, fetchByte_of_peek h.head, andThen_next, operands, andThen_next, decoded, List.length_cons, ← succ_add_ofNat,
    hlength]
  rfl

/-- Settles O5: the fetch gives the instruction whose bytes stand at PC, and the step is its meaning. -/
theorem stepRunsTheDecodedInstruction : Obligations.StepRunsTheDecodedInstruction := by
  intro i s hi hset hbytes
  rw [step, if_pos hset, fetch_of_bytesAt hi hbytes]
  rfl

/-! ## The faults of one access -/

/-- A fault that an access can raise after the reset, with the cartridge and the parameters of `s`: the closed list of
60_exceptions.md R184 without `Unset`. -/
def FatalAccess (s : State) (e : Fault) : Prop :=
  (∃ off, e = .mapperOffset off ∧ (prgAt s.mapper off = none ∨ chrAt s.mapper off = none)) ∨
  (∃ a : Word, e = .ppuUnrouted a ∧ s.params.unrouted = .fault ∧
    (0x3000 ≤ a.toNat ∧ a.toNat < 0x3F00 ∨ 0x3F20 ≤ a.toNat ∧ a.toNat ≤ 0x3FFF)) ∨
  ∃ r dir, e = .ppuUndefinedPort r dir ∧ s.params.undefinedPort = .fault ∧
    (dir = .read ∧ r ∈ [PpuReg.ctrl, .mask, .oamAddr, .scroll, .addr] ∨ dir = .write ∧ r = .status)

section Accesses

variable {s : State} {e : Fault}

theorem readPrg_fault {off : Nat} (h : readPrg off s.mapper = .fault e) : FatalAccess s e := by
  unfold readPrg at h
  split at h <;> cases h
  next hnone => exact .inl ⟨off, rfl, .inl hnone⟩

theorem readChr_fault {off : Nat} (h : readChr off s.mapper = .fault e) : FatalAccess s e := by
  unfold readChr at h
  split at h <;> cases h
  next hnone => exact .inl ⟨off, rfl, .inr hnone⟩

/-- A 14-bit address leads nowhere only in the two ranges of R51, under `PPU_UNROUTED = fault`. -/
theorem unrouted_of_ppuTarget {ps : Params} {mode : MirrorMode} {a : Word} (ha : a.toNat ≤ 0x3FFF)
    (h : ppuTarget ps mode a = .unrouted) : ps.unrouted = .fault ∧
      (0x3000 ≤ a.toNat ∧ a.toNat < 0x3F00 ∨ 0x3F20 ≤ a.toNat ∧ a.toNat ≤ 0x3FFF) := by
  unfold ppuTarget at h
  dsimp only at h
  split_ifs at h
  next =>
    split at h <;> cases h
    next hps => exact ⟨hps, by omega⟩
  next =>
    split at h <;> cases h
    next hps => exact ⟨hps, by omega⟩
  next => omega

/-- PPUDATA at an address that leads nowhere (R51, R169, R170). -/
theorem fatalAccess_ppuUnrouted (hva : s.ppu.vaddr.toNat ≤ 0x3FFF)
    (h : ppuTarget s.params s.mapper.mirror s.ppu.vaddr = .unrouted) : FatalAccess s (.ppuUnrouted s.ppu.vaddr) :=
  .inr (.inl ⟨_, rfl, unrouted_of_ppuTarget hva h⟩)

theorem ppuDataRead_fault (hva : s.ppu.vaddr.toNat ≤ 0x3FFF) (h : ppuDataRead s = .fault e) : FatalAccess s e := by
  unfold ppuDataRead at h
  dsimp only at h
  split at h
  next =>
    obtain hchr | ⟨_, _, h⟩ := andThen_eq_fault.mp h
    · exact readChr_fault hchr
    · cases h
  next => cases h
  next => cases h
  next htarget => cases h; exact fatalAccess_ppuUnrouted hva htarget

theorem ppuDataWrite_fault {v : Byte} (hva : s.ppu.vaddr.toNat ≤ 0x3FFF) (h : ppuDataWrite v s = .fault e) :
    FatalAccess s e := by
  unfold ppuDataWrite at h
  dsimp only at h
  split at h <;> cases h
  next htarget => exact fatalAccess_ppuUnrouted hva htarget

theorem ppuUndefinedRead_fault {r : PpuReg} (hr : r ∈ [PpuReg.ctrl, .mask, .oamAddr, .scroll, .addr])
    (h : ppuUndefinedRead r s = .fault e) : FatalAccess s e := by
  unfold ppuUndefinedRead at h
  split at h <;> cases h
  next hps => exact .inr (.inr ⟨r, .read, rfl, hps, .inl ⟨rfl, hr⟩⟩)

theorem ppuUndefinedWrite_fault (h : ppuUndefinedWrite .status s = .fault e) : FatalAccess s e := by
  unfold ppuUndefinedWrite at h
  split at h <;> cases h
  next hps => exact .inr (.inr ⟨.status, .write, rfl, hps, .inr ⟨rfl, rfl⟩⟩)

theorem busRead_fault {a : Word} (hva : s.ppu.vaddr.toNat ≤ 0x3FFF) (h : busRead a s = .fault e) : FatalAccess s e := by
  unfold busRead at h
  split at h
  next => cases h
  next r _ =>
    cases r with
    | status | oamData => cases h
    | data => exact ppuDataRead_fault hva h
    | ctrl | mask | oamAddr | scroll | addr => exact ppuUndefinedRead_fault (by decide) h
  next => cases h
  next =>
    obtain hprg | ⟨_, _, h⟩ := andThen_eq_fault.mp h
    · exact readPrg_fault hprg
    · cases h

theorem busWrite_fault {a : Word} {v : Byte} (hva : s.ppu.vaddr.toNat ≤ 0x3FFF) (h : busWrite a v s = .fault e) :
    FatalAccess s e := by
  unfold busWrite at h
  split at h
  next => cases h
  next r _ =>
    cases r with
    | status => exact ppuUndefinedWrite_fault h
    | data => exact ppuDataWrite_fault hva h
    | ctrl | mask | oamAddr | oamData | scroll | addr => cases h
  next => cases h
  next => cases h

end Accesses

/-! ## The faults of accesses in a row -/

/-- The set-up of `t` is that of `s`, and its VRAM address is in range: all that the faults of an access depend on. -/
structure SameAccesses (s t : State) : Prop where
  mapper : t.mapper = s.mapper
  params : t.params = s.params
  vaddr : t.ppu.vaddr.toNat ≤ 0x3FFF

/-- The outcome is a value that `Q` holds of, or a refusal, or a fault of an access with the set-up of `s`. -/
def GoesOnOrFatal {α : Type} (s : State) (Q : α → Prop) : Result α → Prop
  | .next x => Q x
  | .fault e => FatalAccess s e
  | .refused _ => True

/-- The outcome is no fault but that of an access with the set-up of `s`. -/
abbrev NoFaultOrFatal {α : Type} (s : State) (r : Result α) : Prop := GoesOnOrFatal s (fun _ => True) r

/-- The same, and where the outcome is a value and a state, the set-up is still that of `s`. -/
abbrev ReadsOrFatal {α : Type} (s : State) (r : Result (α × State)) : Prop :=
  GoesOnOrFatal s (fun x => SameAccesses s x.2) r

section Sequences

variable {α β : Type} {s t u : State}

theorem SameAccesses.of_eq (h : SameAccesses s t) (hm : u.mapper = t.mapper) (hp : u.params = t.params)
    (hu : u.ppu = t.ppu) : SameAccesses s u := ⟨hm.trans h.mapper, hp.trans h.params, hu ▸ h.vaddr⟩

theorem SameAccesses.of_readLeaves (h : SameAccesses s t) (hr : ReadLeaves t u) : SameAccesses s u := by
  obtain ⟨va, hi, buf, n, rfl, hva⟩ := hr
  exact ⟨h.mapper, h.params, hva h.vaddr⟩

theorem FatalAccess.of_same {e : Fault} (he : FatalAccess t e) (h : SameAccesses s t) : FatalAccess s e := by
  unfold FatalAccess at *
  rwa [h.mapper, h.params] at he

/-- Two things in a row: what the first establishes, the second may use. -/
theorem GoesOnOrFatal.bind {P : α → Prop} {Q : β → Prop} {r : Result α} {f : α → Result β}
    (hr : GoesOnOrFatal s P r) (hf : ∀ x, P x → GoesOnOrFatal s Q (f x)) : GoesOnOrFatal s Q (andThen r f) := by
  cases r with
  | next x => exact hf x hr
  | fault e => exact hr
  | refused e => trivial

/-- One thing after which the state is only finished up. -/
theorem GoesOnOrFatal.map {P : α → Prop} {r : Result α} {f : α → β} (hr : GoesOnOrFatal s P r) :
    NoFaultOrFatal s (andThen r fun x => .next (f x)) := hr.bind fun _ _ => trivial

theorem busRead_readsOrFatal (h : SameAccesses s t) (a : Word) : ReadsOrFatal s (busRead a t) := by
  cases hread : busRead a t with
  | next x => exact h.of_readLeaves (busRead_next hread)
  | fault e => exact (busRead_fault h.vaddr hread).of_same h
  | refused e => trivial

theorem busWrite_noFaultOrFatal (h : SameAccesses s t) (a : Word) (v : Byte) : NoFaultOrFatal s (busWrite a v t) := by
  cases hwrite : busWrite a v t with
  | next u => trivial
  | fault e => exact (busWrite_fault h.vaddr hwrite).of_same h
  | refused e => trivial

theorem read16_readsOrFatal (h : SameAccesses s t) (a : Word) : ReadsOrFatal s (read16 a t) :=
  (busRead_readsOrFatal h a).bind fun _ hl => (busRead_readsOrFatal hl _).bind fun _ hh => hh

theorem load_readsOrFatal (h : SameAccesses s t) (o : Opnd) : ReadsOrFatal s (load o t) := by
  cases o with
  | acc | imm => exact h
  | addr ea => exact busRead_readsOrFatal h ea

theorem store_noFaultOrFatal (h : SameAccesses s t) (o : Opnd) (v : Byte) : NoFaultOrFatal s (store o v t) := by
  cases o with
  | acc | imm => trivial
  | addr ea => exact busWrite_noFaultOrFatal h ea v

theorem resolveJump_readsOrFatal (h : SameAccesses s t) (j : JumpOperand) : ReadsOrFatal s (resolveJump j t) := by
  cases j with
  | abj w => exact h
  | ind ptr => exact (busRead_readsOrFatal h ptr).bind fun _ hl => (busRead_readsOrFatal hl _).bind fun _ hh => hh

/-- The pushes of an interrupt entry go to RAM; its faults are those of the vector's read. -/
theorem enterInterrupt_noFaultOrFatal (h : SameAccesses s t) (vector ret : Word) (copy : Byte) :
    NoFaultOrFatal s (enterInterrupt vector ret copy t) := by
  have pushed : SameAccesses s ((push copy (pushWord ret t)).setP (setFlag .i true t.p)) := h.of_eq rfl rfl rfl
  exact (read16_readsOrFatal pushed vector).map

theorem fetchByte_readsOrFatal (h : SameAccesses s t) : ReadsOrFatal s (fetchByte t) :=
  (busRead_readsOrFatal h t.pc).bind fun _ hr => hr.of_eq rfl rfl rfl

theorem fetchBytes_readsOrFatal (h : SameAccesses s t) (n : Nat) : ReadsOrFatal s (fetchBytes n t) := by
  induction n generalizing t with
  | zero => exact h
  | succ n ih => exact (fetchByte_readsOrFatal h).bind fun _ hr => (ih hr).bind fun _ hq => hq

theorem fetch_readsOrFatal (h : SameAccesses s t) : ReadsOrFatal s (fetch t) :=
  (fetchByte_readsOrFatal h).bind fun _ hr => (fetchBytes_readsOrFatal hr _).bind fun _ hq => by
    split
    · exact hq
    · trivial

/-! ## The faults of an instruction and of a step -/

theorem withOperand_noFaultOrFatal {i : Instr} {modes : List Mode} {m : Operand} {handler : Opnd → State → Result State}
    (h : ∀ o, NoFaultOrFatal s (handler o t)) : NoFaultOrFatal s (withOperand i modes m handler t) := by
  unfold withOperand
  split
  · exact (h _).map
  · trivial

theorem loadThen_noFaultOrFatal (h : SameAccesses s t) (f : Byte → State → State) (o : Opnd) :
    NoFaultOrFatal s (loadThen f o t) := (load_readsOrFatal h o).map

theorem modify_noFaultOrFatal (h : SameAccesses s t) (f : ByteOp) (o : Opnd) : NoFaultOrFatal s (modify f o t) :=
  (load_readsOrFatal h o).bind fun _ hr => (store_noFaultOrFatal hr o _).map

theorem exec_noFaultOrFatal (h : SameAccesses s t) (i : Instr) : NoFaultOrFatal s (exec i t) := by
  cases i with
  | lda m | ldx m | ldy m | adc m | sbc m | cmp m | cpx m | cpy m | and m | ora m | eor m | bit m =>
    exact withOperand_noFaultOrFatal (loadThen_noFaultOrFatal h _)
  | sta m | stx m | sty m => exact withOperand_noFaultOrFatal fun o => store_noFaultOrFatal h o _
  | inc m | dec m | asl m | lsr m | rol m | ror m => exact withOperand_noFaultOrFatal (modify_noFaultOrFatal h _)
  | jmp j => exact (resolveJump_readsOrFatal h j).map
  | brk => exact (enterInterrupt_noFaultOrFatal h _ _ _).map
  | unknown op =>
    rw [exec, execUnknown]
    split <;> trivial
  | bcc off | bcs off | beq off | bne off | bmi off | bpl off | bvc off | bvs off
  | tax | tay | txa | tya | tsx | txs | inx | iny | dex | dey | jsr w | rts | pha | pla | php | plp | rti
  | clc | sec | cli | sei | cld | sed | clv | nop => trivial

theorem step_noFaultOrFatal (hset : s.cpuSet = true) (hva : s.ppu.vaddr.toNat ≤ 0x3FFF) : NoFaultOrFatal s (step s) := by
  rw [step, if_pos hset]
  exact (fetch_readsOrFatal ⟨rfl, rfl, hva⟩).bind fun r hr => exec_noFaultOrFatal hr r.1

end Sequences

/-- Settles O11: a step is accesses in a row, and none changes the set-up that the faults of the next depend on. -/
theorem stepsFaultOnlyOnFatalAccesses : Obligations.StepsFaultOnlyOnFatalAccesses := by
  intro s e hset hva h
  have fatal := step_noFaultOrFatal hset hva
  rw [h] at fatal
  exact fatal

end Sys2Proof.Machine
end

section
/-! SUPPORT. The addressing modes of the operand accessor in numbers: zero-page addresses and pointers wrap within
page 0, an index is added modulo 2^16 and the page test compares quotients by 256. -/

namespace Sys2Proof.Machine

/-! ## Zero-extended bytes and pages as numbers -/

theorem zext16_eq_ofNat (b : Byte) : zext16 b = BitVec.ofNat 16 b.toNat := (BitVec.ofNat_toNat 16 b).symm

/-- A zero-page address with an index wraps within page 0 (R84, R85). -/
theorem zext16_add (b c : Byte) : zext16 (b + c) = BitVec.ofNat 16 ((b.toNat + c.toNat) % 256) := by
  rw [zext16_eq_ofNat, BitVec.toNat_add]

/-- The mask of R10 clears the low byte. -/
theorem toNat_pageOf (a : Word) : (pageOf a).toNat = a.toNat / 256 * 256 := by
  have low : (a.toNat &&& 0xFF00) % 2 ^ 8 = 0 := by
    rw [Nat.and_mod_two_pow]
    exact Nat.and_zero _
  have high : (a.toNat &&& 0xFF00) / 2 ^ 8 = a.toNat / 2 ^ 8 % 2 ^ 8 := by
    rw [Nat.and_div_two_pow]
    exact Nat.and_two_pow_sub_one_eq_mod _ 8
  have bound := a.isLt
  rw [pageOf, BitVec.toNat_and, show (0xFF00 : Word).toNat = 0xFF00 from rfl]
  omega

theorem pageOf_eq_iff {a b : Word} : pageOf a = pageOf b ↔ a.toNat / 256 = b.toNat / 256 := by
  rw [← BitVec.toNat_inj, toNat_pageOf, toNat_pageOf]
  omega

/-! ## Pointers in page 0 and indexed addresses -/

/-- Both bytes of the pointer are in page 0, the low one first (R91, R92). -/
theorem toNat_zeroPageWord (s : State) (p : Byte) : (zeroPageWord s p).toNat =
    (memRead s.ram ((p.toNat + 1) % 256)).toNat * 256 + (memRead s.ram (p.toNat % 256)).toNat := by
  rw [zeroPageWord, toNat_joinBytes, BitVec.toNat_add, Nat.mod_eq_of_lt p.isLt]
  rfl

/-- The pointer of IZX: the index is added before the pointer is read, without leaving page 0 (R91). -/
theorem toNat_zeroPageWord_add (s : State) (b c : Byte) : (zeroPageWord s (b + c)).toNat =
    (memRead s.ram ((b.toNat + c.toNat + 1) % 256)).toNat * 256 +
      (memRead s.ram ((b.toNat + c.toNat) % 256)).toNat := by
  rw [toNat_zeroPageWord, BitVec.toNat_add, Nat.mod_add_mod, Nat.mod_mod]

/-- The index is added modulo 2^16, and the page is crossed when the quotient by 256 changes (R88). -/
theorem indexed_eq (base : Word) (index : Byte) : indexed base index =
    { opnd := .addr (BitVec.ofNat 16 (base.toNat + index.toNat))
      crossed := decide (base.toNat / 256 ≠ (base.toNat + index.toNat) % 65536 / 256) } := by
  have address : base + zext16 index = BitVec.ofNat 16 (base.toNat + index.toNat) := by
    rw [BitVec.ofNat_add, ← zext16_eq_ofNat, BitVec.ofNat_toNat, BitVec.setWidth_eq]
  have crossing : (pageOf base != pageOf (BitVec.ofNat 16 (base.toNat + index.toNat))) =
      decide (base.toNat / 256 ≠ (base.toNat + index.toNat) % 65536 / 256) := by
    rw [Bool.eq_iff_iff, bne_iff_ne, decide_eq_true_iff, ne_eq, pageOf_eq_iff, BitVec.toNat_ofNat]
  rw [indexed, address, crossing]

theorem addr_eq_ofNat (w : Word) : Opnd.addr w = .addr (BitVec.ofNat 16 w.toNat) := by
  rw [BitVec.ofNat_toNat, BitVec.setWidth_eq]

/-- Settles O34: each mode by its rule in numbers; the operand accessor's loads and stores are read off it. -/
theorem addressingModesComputeTheOperand : Obligations.AddressingModesComputeTheOperand := by
  intro b w s v pointer plain added
  have zp0 : resolve (.zp0 b) s = plain b.toNat := by rw [resolve, zext16_eq_ofNat]
  have zpx : resolve (.zpx b) s = plain ((b.toNat + s.x.toNat) % 256) := by rw [resolve, zext16_add]
  have zpy : resolve (.zpy b) s = plain ((b.toNat + s.y.toNat) % 256) := by rw [resolve, zext16_add]
  have abs : resolve (.abs w) s = plain w.toNat := by rw [resolve, addr_eq_ofNat]
  have izx : resolve (.izx b) s = plain (pointer (b.toNat + s.x.toNat)) := by
    rw [resolve, addr_eq_ofNat, toNat_zeroPageWord_add]
  have izy : resolve (.izy b) s = added (pointer b.toNat) s.y.toNat := by
    rw [resolve, indexed_eq, toNat_zeroPageWord]
  exact ⟨rfl, rfl, zp0, zpx, zpy, abs, indexed_eq w s.x, indexed_eq w s.y, izx, izy, rfl, rfl, rfl, rfl, rfl⟩

end Sys2Proof.Machine
end

section
/-! SUPPORT. The rows of a mnemonic: the opcode each has and, once its handler goes on, where it goes on with its cycle
count; then the loads, the stores and the register transfers (42_load_store_transfer.md R98 to R109). -/

namespace Sys2Proof.Machine

/-! ## What the rows of a mnemonic do -/

/-- In a list with one row a mode, the mode of a row has the opcode of that row. -/
theorem opcodeIn_of_mem {k : Mode} {op : Byte} {rows : List (Mode × Byte)} (hrows : (rows.map Prod.fst).Nodup)
    (h : (k, op) ∈ rows) : opcodeIn k rows = some op := by
  induction rows with
  | nil => cases h
  | cons row rows ih =>
    rw [List.map_cons, List.nodup_cons] at hrows
    obtain ⟨fresh, hrows⟩ := hrows
    obtain rfl | h := List.mem_cons.mp h
    · exact if_pos rfl
    · have other : row.1 ≠ k := fun hk => fresh (hk ▸ List.mem_map_of_mem h)
      rw [opcodeIn, if_neg other, ih hrows h]

/-- The mnemonic `f` has the given rows, one a mode, and runs `handler` on its resolved operand. -/
structure RunsHandler (f : Operand → Instr) (rows : List (Mode × Byte)) (handler : Opnd → State → Result State) :
    Prop where
  operandOf_eq : ∀ m, operandOf (f m) = some m
  opcodeOf_eq : ∀ m, opcodeOf (f m) = opcodeIn m.mode rows
  exec_eq : ∀ m s, exec (f m) s = withOperand (f m) (rows.map Prod.fst) m handler s
  nodup : (rows.map Prod.fst).Nodup

section Rows

variable {f : Operand → Instr} {rows : List (Mode × Byte)} {m : Operand} {op : Byte} {s : State}

/-- A row whose handler goes on has its opcode and goes on with nothing more than its cycle count (R72, R76). -/
theorem RunsHandler.row {handler : Opnd → State → Result State} (hf : RunsHandler f rows handler)
    (hrow : (m.mode, op) ∈ rows) {u : State} (hu : handler (resolve m s).opnd s = .next u) :
    opcodeOf (f m) = some op ∧ exec (f m) s = .next { u with cycles := cost (f m) m s } := by
  have goesOn : exec (f m) s = .next (finish (f m) (resolve m s).crossed 0 u) := by
    rw [hf.exec_eq, withOperand, if_pos (List.mem_map_of_mem hrow), hu]
    rfl
  refine ⟨by rw [hf.opcodeOf_eq, opcodeIn_of_mem hf.nodup hrow], ?_⟩
  rw [goesOn, ← exec_cycles_of_operand (hf.operandOf_eq m) goesOn]
  rfl

/-- A loading row goes on with what its handler makes of the loaded byte and the state after the load (R94). -/
theorem RunsHandler.loadThen_row {g : Byte → State → State} (hf : RunsHandler f rows (loadThen g))
    (hrow : (m.mode, op) ∈ rows) {v : Byte} {t : State} (hload : load (resolve m s).opnd s = .next (v, t)) :
    opcodeOf (f m) = some op ∧ exec (f m) s = .next { g v t with cycles := cost (f m) m s } :=
  hf.row hrow (by rw [loadThen, hload]; rfl)

/-- A row that stores a register goes on with the one Bus write of it, in the state it starts from (R95). -/
theorem RunsHandler.storeReg_row {reg : State → Byte} (hf : RunsHandler f rows fun o u => store o (reg u) u)
    {ea : Word} (hea : (resolve m s).opnd = .addr ea) (hwrite : writeOk ea s = true) (hrow : (m.mode, op) ∈ rows) :
    opcodeOf (f m) = some op ∧
      ∃ t, busWrite ea (reg s) s = .next t ∧ exec (f m) s = .next { t with cycles := cost (f m) m s } := by
  obtain ⟨t, ht⟩ := busWrite_ok.mp hwrite
  obtain ⟨opcode, goesOn⟩ := hf.row hrow (show store (resolve m s).opnd (reg s) s = .next t by rw [hea, store, ht])
  exact ⟨opcode, t, ht, goesOn⟩

end Rows

/-- An instruction that only changes registers or the stack completes at its base count (R76). -/
theorem exec_eq_next_of_implied {i : Instr} {f : State → State} {s : State} (hexec : exec i s = implied i f s)
    (hm : operandOf i = none) (hi : wellFormed i = true) : exec i s = .next { f s with cycles := countOf i } := by
  rw [hexec, implied, finish_eq, pagePenalty_false, baseCycles_eq_countOf_of_none hm hi]
  rfl

/-! ## Loads -/

theorem ReadLeaves.p_eq {s t : State} (h : ReadLeaves s t) : t.p = s.p := by
  obtain ⟨_, _, _, _, rfl, -⟩ := h
  rfl

theorem lda_runs : RunsHandler .lda
    [(.imm, 0xA9), (.zp0, 0xA5), (.zpx, 0xB5), (.abs, 0xAD), (.abx, 0xBD), (.aby, 0xB9), (.izx, 0xA1), (.izy, 0xB1)]
    (loadThen fun v t => (t.setA v).setP (setNZ v t.p)) := ⟨fun _ => rfl, fun _ => rfl, fun _ _ => rfl, by decide⟩

theorem ldx_runs : RunsHandler .ldx [(.imm, 0xA2), (.zp0, 0xA6), (.zpy, 0xB6), (.abs, 0xAE), (.aby, 0xBE)]
    (loadThen fun v t => (t.setX v).setP (setNZ v t.p)) := ⟨fun _ => rfl, fun _ => rfl, fun _ _ => rfl, by decide⟩

theorem ldy_runs : RunsHandler .ldy [(.imm, 0xA0), (.zp0, 0xA4), (.zpx, 0xB4), (.abs, 0xAC), (.abx, 0xBC)]
    (loadThen fun v t => (t.setY v).setP (setNZ v t.p)) := ⟨fun _ => rfl, fun _ => rfl, fun _ _ => rfl, by decide⟩

/-- Settles O35: the load leaves P, so N and Z are set in the P of `s`; each mnemonic by its rows. -/
theorem loadsLoadTheOperand : Obligations.LoadsLoadTheOperand := by
  intro m op s hread
  obtain ⟨v, t, hload⟩ := load_ok.mp hread
  have flags : NZFrom v s.p (setNZ v t.p) := (load_next hload).p_eq ▸ setNZ_nzFrom v t.p
  exact ⟨v, t, setNZ v t.p, load_iff_loaded.mp hload, flags, fun hrow => lda_runs.loadThen_row hrow hload,
    fun hrow => ldx_runs.loadThen_row hrow hload, fun hrow => ldy_runs.loadThen_row hrow hload⟩

/-! ## Stores -/

theorem sta_runs : RunsHandler .sta
    [(.zp0, 0x85), (.zpx, 0x95), (.abs, 0x8D), (.abx, 0x9D), (.aby, 0x99), (.izx, 0x81), (.izy, 0x91)]
    (fun o u => store o u.a u) := ⟨fun _ => rfl, fun _ => rfl, fun _ _ => rfl, by decide⟩

theorem stx_runs : RunsHandler .stx [(.zp0, 0x86), (.zpy, 0x96), (.abs, 0x8E)] (fun o u => store o u.x u) :=
  ⟨fun _ => rfl, fun _ => rfl, fun _ _ => rfl, by decide⟩

theorem sty_runs : RunsHandler .sty [(.zp0, 0x84), (.zpx, 0x94), (.abs, 0x8C)] (fun o u => store o u.y u) :=
  ⟨fun _ => rfl, fun _ => rfl, fun _ _ => rfl, by decide⟩

/-- Settles O36: each mnemonic by its rows and the one write of its register. -/
theorem storesWriteTheRegister : Obligations.StoresWriteTheRegister := by
  intro m op ea s hea hwrite
  exact ⟨sta_runs.storeReg_row hea hwrite, stx_runs.storeReg_row hea hwrite, sty_runs.storeReg_row hea hwrite⟩

/-! ## Transfers -/

theorem exec_tax (s : State) : exec .tax s = implied .tax (fun t => (t.setX t.a).setP (setNZ t.a t.p)) s := rfl

theorem exec_tay (s : State) : exec .tay s = implied .tay (fun t => (t.setY t.a).setP (setNZ t.a t.p)) s := rfl

theorem exec_txa (s : State) : exec .txa s = implied .txa (fun t => (t.setA t.x).setP (setNZ t.x t.p)) s := rfl

theorem exec_tya (s : State) : exec .tya s = implied .tya (fun t => (t.setA t.y).setP (setNZ t.y t.p)) s := rfl

theorem exec_tsx (s : State) : exec .tsx s = implied .tsx (fun t => (t.setX t.sp).setP (setNZ t.sp t.p)) s := rfl

theorem exec_txs (s : State) : exec .txs s = implied .txs (fun t => t.setSp t.x) s := rfl

/-- Settles O37: `setNZ` of the copied register gives the new P, and each transfer completes at its base count. -/
theorem transfersCopyTheRegister : Obligations.TransfersCopyTheRegister := by
  intro s
  refine ⟨setNZ s.a s.p, setNZ s.x s.p, setNZ s.y s.p, setNZ s.sp s.p, setNZ_nzFrom _ _, setNZ_nzFrom _ _,
    setNZ_nzFrom _ _, setNZ_nzFrom _ _, ?tax, rfl, ?tay, rfl, ?txa, rfl, ?tya, rfl, ?tsx, rfl, ?txs, rfl⟩
  case tax => exact exec_eq_next_of_implied (exec_tax s) rfl rfl
  case tay => exact exec_eq_next_of_implied (exec_tay s) rfl rfl
  case txa => exact exec_eq_next_of_implied (exec_txa s) rfl rfl
  case tya => exact exec_eq_next_of_implied (exec_tya s) rfl rfl
  case tsx => exact exec_eq_next_of_implied (exec_tsx s) rfl rfl
  case txs => exact exec_eq_next_of_implied (exec_txs s) rfl rfl

end Sys2Proof.Machine
end

section
/-! SUPPORT. The addition path in numbers and the flags of it, of the compares and of BIT; the rows that modify memory;
then arithmetic, compares, logic, increments and decrements (43_arith_logic.md R110 to R127). -/

namespace Sys2Proof.Machine

/-! ## The addition path in numbers -/

theorem getLsbD_seven (b : Byte) : b.getLsbD 7 = decide (128 ≤ b.toNat) :=
  (BitVec.msb_eq_getLsbD_last b).symm.trans (BitVec.msb_eq_decide b)

theorem toNat_addCore_r (a m : Byte) (c : Bool) : (addCore a m c).r.toNat = (a.toNat + m.toNat + c.toNat) % 256 :=
  BitVec.toNat_ofNat _ 8

theorem addCore_c_iff (a m : Byte) (c : Bool) : (addCore a m c).c = true ↔ 256 ≤ a.toNat + m.toNat + c.toNat :=
  decide_eq_true_iff

/-- V by the signs of R111: the operands share one, and the byte has the other. -/
theorem addCore_v_iff_signs (a m : Byte) (c : Bool) : (addCore a m c).v = true ↔
    (128 ≤ a.toNat ↔ 128 ≤ m.toNat) ∧ ¬(128 ≤ (a.toNat + m.toNat + c.toNat) % 256 ↔ 128 ≤ a.toNat) := by
  rw [← toNat_addCore_r a m c, show (addCore a m c).v =
    (a.getLsbD 7 == m.getLsbD 7 && (addCore a m c).r.getLsbD 7 != a.getLsbD 7) from rfl]
  simp only [Bool.and_eq_true, beq_iff_eq, bne_iff_ne, ne_eq, getLsbD_seven, decide_eq_decide]

/-- The rule of signs is the signed sum leaving the range of a byte. -/
theorem addCore_v_iff (a m : Byte) (c : Bool) : (addCore a m c).v = true ↔
    a.toInt + m.toInt + c.toNat < -128 ∨ 127 < a.toInt + m.toInt + c.toNat := by
  have carry := c.toNat_le
  rw [addCore_v_iff_signs, BitVec.toInt_eq_toNat_cond, BitVec.toInt_eq_toNat_cond]
  split <;> split <;> omega

/-! ## The addition path with the complemented operand -/

theorem toInt_complement (m : Byte) : (~~~m).toInt = -m.toInt - 1 := by
  have bound := m.isLt
  rw [BitVec.toInt_eq_toNat_cond, BitVec.toInt_eq_toNat_cond, BitVec.toNat_not]
  split <;> split <;> omega

/-- Adding the complement with a carry subtracts; without one it subtracts one more (R113). -/
theorem addCore_not_r (a m : Byte) (c : Bool) : (addCore a (~~~m) c).r = a - m - (if c then 0 else 1) := by
  apply BitVec.eq_of_toNat_eq
  rw [toNat_addCore_r, BitVec.toNat_not]
  cases c <;> simp [BitVec.toNat_sub] <;> omega

theorem addCore_not_c_iff (a m : Byte) (c : Bool) :
    (addCore a (~~~m) c).c = true ↔ m.toNat + (if c then 0 else 1) ≤ a.toNat := by
  have bound := m.isLt
  rw [addCore_c_iff, BitVec.toNat_not]
  cases c <;> simp <;> omega

theorem addCore_not_v_iff (a m : Byte) (c : Bool) : (addCore a (~~~m) c).v = true ↔
    a.toInt - m.toInt - (if c then 0 else 1) < -128 ∨ 127 < a.toInt - m.toInt - (if c then 0 else 1) := by
  rw [addCore_v_iff, toInt_complement]
  cases c <;> simp <;> omega

/-- Settles O39: the rule of signs in numbers, and the complement as a subtraction. -/
theorem overflowIsSignedOverflow : Obligations.OverflowIsSignedOverflow := fun a m c =>
  ⟨addCore_v_iff a m c, addCore_c_iff a m c, addCore_not_r a m c, addCore_not_c_iff a m c, addCore_not_v_iff a m c⟩

/-! ## The registers a load leaves -/

theorem ReadLeaves.a_eq {s t : State} (h : ReadLeaves s t) : t.a = s.a := by
  obtain ⟨_, _, _, _, rfl, -⟩ := h
  rfl

theorem ReadLeaves.x_eq {s t : State} (h : ReadLeaves s t) : t.x = s.x := by
  obtain ⟨_, _, _, _, rfl, -⟩ := h
  rfl

theorem ReadLeaves.y_eq {s t : State} (h : ReadLeaves s t) : t.y = s.y := by
  obtain ⟨_, _, _, _, rfl, -⟩ := h
  rfl

/-! ## Addition and subtraction -/

/-- The flags of ADC and SBC are those R111 describes. -/
theorem addFlags_sumFlags (a m : Byte) (c : Bool) (p : Byte) :
    SumFlags a m c (addCore a m c).r p (addFlags (addCore a m c) p) := by
  refine ⟨toNat_addCore_r a m c, by simp, by simp [beq_eq_decide], by simp [addCore], ?v, ?others⟩
  case v => simp [addCore, beq_eq_decide, bne]
  case others =>
    intro f hn hv hz hc
    simp [hn, hv, hz, hc]

theorem adc_runs : RunsHandler .adc
    [(.imm, 0x69), (.zp0, 0x65), (.zpx, 0x75), (.abs, 0x6D), (.abx, 0x7D), (.aby, 0x79), (.izx, 0x61), (.izy, 0x71)]
    (loadThen fun v t =>
      (t.setA (addCore t.a v (flag .c t.p)).r).setP (addFlags (addCore t.a v (flag .c t.p)) t.p)) :=
  ⟨fun _ => rfl, fun _ => rfl, fun _ _ => rfl, by decide⟩

theorem sbc_runs : RunsHandler .sbc
    [(.imm, 0xE9), (.zp0, 0xE5), (.zpx, 0xF5), (.abs, 0xED), (.abx, 0xFD), (.aby, 0xF9), (.izx, 0xE1), (.izy, 0xF1)]
    (loadThen fun v t =>
      (t.setA (addCore t.a (~~~v) (flag .c t.p)).r).setP (addFlags (addCore t.a (~~~v) (flag .c t.p)) t.p)) :=
  ⟨fun _ => rfl, fun _ => rfl, fun _ _ => rfl, by decide⟩

/-- Settles O38: the load leaves A and P, so the sum is that of the A and C of `s`; each mnemonic by its rows. -/
theorem adcAndSbcAddThroughOnePath : Obligations.AdcAndSbcAddThroughOnePath := by
  intro m op s hread
  obtain ⟨v, t, hload⟩ := load_ok.mp hread
  have kept := load_next hload
  refine ⟨v, t, load_iff_loaded.mp hload, ?rows⟩
  rw [← kept.a_eq, ← kept.p_eq]
  exact ⟨fun hrow => (adc_runs.loadThen_row hrow hload).imp_right fun goesOn =>
      ⟨_, _, addFlags_sumFlags t.a v (flag .c t.p) t.p, goesOn⟩,
    fun hrow => (sbc_runs.loadThen_row hrow hload).imp_right fun goesOn =>
      ⟨_, _, addFlags_sumFlags t.a (~~~v) (flag .c t.p) t.p, goesOn⟩⟩

/-! ## Compares -/

@[simp] theorem flag_compareFlags (f : Flag) (ps : Params) (reg m p : Byte) : flag f (compareFlags ps reg m p) =
    if f = .v ∧ ps.cmpWritesV = true then (addCore reg (~~~m) true).v
    else if f = .n then (addCore reg (~~~m) true).r.getLsbD 7 else if f = .z then (addCore reg (~~~m) true).r == 0
    else if f = .c then (addCore reg (~~~m) true).c else flag f p := by
  unfold compareFlags
  cases ps.cmpWritesV <;> simp

/-- The flags of a comparison are those of the subtraction without borrow (R114). -/
theorem compareFlags_comparesTo (ps : Params) (reg m p : Byte) : ComparesTo ps reg m p (compareFlags ps reg m p) := by
  have byte : (addCore reg (~~~m) true).r = reg - m := by simpa using addCore_not_r reg m true
  have carry : (addCore reg (~~~m) true).c = decide (m.toNat ≤ reg.toNat) :=
    Bool.eq_iff_iff.mpr (by simpa using addCore_not_c_iff reg m true)
  have overflow : (addCore reg (~~~m) true).v =
      decide (reg.toInt - m.toInt < -128 ∨ 127 < reg.toInt - m.toInt) :=
    Bool.eq_iff_iff.mpr (by simpa using addCore_not_v_iff reg m true)
  refine ⟨by simp [byte], ?z, by simp [carry], by simp [overflow], fun f hn hv hz hc => by simp [hn, hv, hz, hc]⟩
  case z => simp [byte, beq_eq_decide, BitVec.sub_eq_iff_eq_add]

theorem cmp_runs : RunsHandler .cmp
    [(.imm, 0xC9), (.zp0, 0xC5), (.zpx, 0xD5), (.abs, 0xCD), (.abx, 0xDD), (.aby, 0xD9), (.izx, 0xC1), (.izy, 0xD1)]
    (loadThen fun v t => t.setP (compareFlags t.params t.a v t.p)) :=
  ⟨fun _ => rfl, fun _ => rfl, fun _ _ => rfl, by decide⟩

theorem cpx_runs : RunsHandler .cpx [(.imm, 0xE0), (.zp0, 0xE4), (.abs, 0xEC)]
    (loadThen fun v t => t.setP (compareFlags t.params t.x v t.p)) :=
  ⟨fun _ => rfl, fun _ => rfl, fun _ _ => rfl, by decide⟩

theorem cpy_runs : RunsHandler .cpy [(.imm, 0xC0), (.zp0, 0xC4), (.abs, 0xCC)]
    (loadThen fun v t => t.setP (compareFlags t.params t.y v t.p)) :=
  ⟨fun _ => rfl, fun _ => rfl, fun _ _ => rfl, by decide⟩

/-- A comparing row goes on with the flags of comparing the register, which the load leaves, with the loaded byte. -/
theorem RunsHandler.compare_row {f : Operand → Instr} {rows : List (Mode × Byte)} {reg : State → Byte}
    (hf : RunsHandler f rows (loadThen fun v t => t.setP (compareFlags t.params (reg t) v t.p)))
    (hreg : ∀ {s t}, ReadLeaves s t → reg t = reg s) {m : Operand} {op : Byte} (hrow : (m.mode, op) ∈ rows)
    {s t : State} {v : Byte} (hload : load (resolve m s).opnd s = .next (v, t)) :
    opcodeOf (f m) = some op ∧ ∃ q, ComparesTo s.params (reg s) v s.p q ∧
      exec (f m) s = .next { t with p := q, cycles := cost (f m) m s } := by
  obtain ⟨opcode, goesOn⟩ := hf.loadThen_row hrow hload
  rw [hreg (load_next hload)] at goesOn
  obtain ⟨_, _, _, _, rfl, -⟩ := load_next hload
  exact ⟨opcode, _, compareFlags_comparesTo s.params (reg s) v s.p, goesOn⟩

/-- Settles O40: each mnemonic by its rows, its register left by the load. -/
theorem comparesSetFlagsOnly : Obligations.ComparesSetFlagsOnly := by
  intro m op s hread
  obtain ⟨v, t, hload⟩ := load_ok.mp hread
  exact ⟨v, t, load_iff_loaded.mp hload, fun hrow => cmp_runs.compare_row ReadLeaves.a_eq hrow hload,
    fun hrow => cpx_runs.compare_row ReadLeaves.x_eq hrow hload,
    fun hrow => cpy_runs.compare_row ReadLeaves.y_eq hrow hload⟩

/-! ## Logic -/

theorem and_runs : RunsHandler .and
    [(.imm, 0x29), (.zp0, 0x25), (.zpx, 0x35), (.abs, 0x2D), (.abx, 0x3D), (.aby, 0x39), (.izx, 0x21), (.izy, 0x31)]
    (loadThen fun v t => (t.setA (t.a &&& v)).setP (setNZ (t.a &&& v) t.p)) :=
  ⟨fun _ => rfl, fun _ => rfl, fun _ _ => rfl, by decide⟩

theorem ora_runs : RunsHandler .ora
    [(.imm, 0x09), (.zp0, 0x05), (.zpx, 0x15), (.abs, 0x0D), (.abx, 0x1D), (.aby, 0x19), (.izx, 0x01), (.izy, 0x11)]
    (loadThen fun v t => (t.setA (t.a ||| v)).setP (setNZ (t.a ||| v) t.p)) :=
  ⟨fun _ => rfl, fun _ => rfl, fun _ _ => rfl, by decide⟩

theorem eor_runs : RunsHandler .eor
    [(.imm, 0x49), (.zp0, 0x45), (.zpx, 0x55), (.abs, 0x4D), (.abx, 0x5D), (.aby, 0x59), (.izx, 0x41), (.izy, 0x51)]
    (loadThen fun v t => (t.setA (t.a ^^^ v)).setP (setNZ (t.a ^^^ v) t.p)) :=
  ⟨fun _ => rfl, fun _ => rfl, fun _ _ => rfl, by decide⟩

theorem bit_runs : RunsHandler .bit [(.zp0, 0x24), (.abs, 0x2C)]
    (loadThen fun v t => t.setP (bitFlags t.a v t.p)) := ⟨fun _ => rfl, fun _ => rfl, fun _ _ => rfl, by decide⟩

theorem flag_bitFlags_other {f : Flag} (hn : f ≠ .n) (hv : f ≠ .v) (hz : f ≠ .z) (a m p : Byte) :
    flag f (bitFlags a m p) = flag f p := by
  simp [hn, hv, hz]

/-- Settles O41: the load leaves A and P, so both are those of `s`; each mnemonic by its rows. -/
theorem logicCombinesWithA : Obligations.LogicCombinesWithA := by
  intro m op s hread
  obtain ⟨v, t, hload⟩ := load_ok.mp hread
  have loaded := load_iff_loaded.mp hload
  have bitZero : flag .z (bitFlags s.a v s.p) = decide (s.a &&& v = 0) := by simp [beq_eq_decide]
  refine ⟨v, t, _, _, _, bitFlags s.a v s.p, loaded, setNZ_nzFrom _ _, setNZ_nzFrom _ _, setNZ_nzFrom _ _,
    ⟨bitZero, by simp, by simp, fun f hn hv hz => flag_bitFlags_other hn hv hz s.a v s.p⟩, ?rows⟩
  have kept := load_next hload
  rw [← kept.a_eq, ← kept.p_eq]
  exact ⟨fun hrow => and_runs.loadThen_row hrow hload, fun hrow => ora_runs.loadThen_row hrow hload,
    fun hrow => eor_runs.loadThen_row hrow hload, fun hrow => bit_runs.loadThen_row hrow hload⟩

/-! ## Reading an operand and writing it back -/

/-- A PPUDATA read that goes on advances the VRAM address (R169). -/
theorem ppuDataRead_vaddr {s t : State} {v : Byte} (h : ppuDataRead s = .next (v, t)) :
    t.ppu.vaddr = advanceVaddr (vramIncrement s.ppu.ctrl) s.ppu.vaddr := by
  unfold ppuDataRead at h
  dsimp only at h
  split at h
  · obtain ⟨_, _, h⟩ := andThen_eq_next.mp h
    cases h
    rfl
  · cases h; rfl
  · cases h; rfl
  · cases h

/-- After the read of a modified address, the write at it goes on (R206). -/
theorem writeOk_of_modifyOk {a : Word} {s t : State} {v : Byte} (h : modifyOk a s = true)
    (hread : busRead a s = .next (v, t)) : writeOk a t = true := by
  have kept := DevicesKept.of_readLeaves (busRead_next hread)
  obtain ⟨-, h⟩ := Bool.and_eq_true_iff.mp h
  unfold writeOk
  cases ha : busTarget a with
  | ram i | unmapped | prg off => rfl
  | ppu r =>
    rw [ha] at h
    cases r with
    | status =>
      dsimp only [undefinedPortsOk] at h ⊢
      rwa [kept.params]
    | data =>
      rw [busRead_ppu ha] at hread
      dsimp only at h ⊢
      rwa [kept.params, kept.mapper, ppuDataRead_vaddr hread]
    | ctrl | mask | oamAddr | oamData | scroll | addr => rfl

/-- Where an operand can be modified, its load goes on, and after it the store of any byte. -/
theorem modify_ok {m : Operand} {s : State} (h : operandModifyOk m s = true) :
    ∃ v t, load (resolve m s).opnd s = .next (v, t) ∧ ∀ r, ∃ u, store (resolve m s).opnd r t = .next u := by
  unfold operandModifyOk at h
  cases ho : (resolve m s).opnd with
  | acc => exact ⟨s.a, s, rfl, fun r => ⟨s.setA r, rfl⟩⟩
  | imm v => simp [ho] at h
  | addr ea =>
    rw [ho] at h
    obtain ⟨v, t, hread⟩ := busRead_ok.mp (Bool.and_eq_true_iff.mp h).1
    exact ⟨v, t, hread, fun _ => busWrite_ok.mp (writeOk_of_modifyOk h hread)⟩

/-- A modifying row goes on with the one store of the computed byte after the load, and the computed P (R97). -/
theorem RunsHandler.modify_row {f : Operand → Instr} {rows : List (Mode × Byte)} {g : ByteOp}
    (hf : RunsHandler f rows (modify g)) {m : Operand} {op : Byte} (hrow : (m.mode, op) ∈ rows) {s t : State} {v : Byte}
    (hload : load (resolve m s).opnd s = .next (v, t)) (hstore : ∀ r, ∃ u, store (resolve m s).opnd r t = .next u) :
    opcodeOf (f m) = some op ∧ ∃ u, Stored (resolve m s).opnd (g v s.p).1 t u ∧
      exec (f m) s = .next { u with p := (g v s.p).2, cycles := cost (f m) m s } := by
  rw [← (load_next hload).p_eq]
  obtain ⟨u, hu⟩ := hstore (g v t.p).1
  have handled : modify g (resolve m s).opnd s = .next (u.setP (g v t.p).2) := by
    rw [modify, hload, andThen_next, hu, andThen_next]
  obtain ⟨opcode, goesOn⟩ := hf.row hrow handled
  exact ⟨opcode, u, store_iff_stored.mp hu, goesOn⟩

/-! ## Increments and decrements -/

theorem toNat_sub_one (b : Byte) : (b - 1).toNat = (b.toNat + 255) % 256 := by
  rw [BitVec.toNat_sub, Nat.add_comm]
  rfl

theorem inc_runs : RunsHandler .inc [(.zp0, 0xE6), (.zpx, 0xF6), (.abs, 0xEE), (.abx, 0xFE)] (modify incrementOp) :=
  ⟨fun _ => rfl, fun _ => rfl, fun _ _ => rfl, by decide⟩

theorem dec_runs : RunsHandler .dec [(.zp0, 0xC6), (.zpx, 0xD6), (.abs, 0xCE), (.abx, 0xDE)] (modify decrementOp) :=
  ⟨fun _ => rfl, fun _ => rfl, fun _ _ => rfl, by decide⟩

/-- Settles O42: each mnemonic by its rows, with the read and then the write of its address. -/
theorem incAndDecModifyMemory : Obligations.IncAndDecModifyMemory := by
  intro m op s hmodify
  obtain ⟨v, t, hload, hstore⟩ := modify_ok hmodify
  refine ⟨v, t, load_iff_loaded.mp hload, fun hrow => ?inc, fun hrow => ?dec⟩
  case inc =>
    obtain ⟨opcode, u, stored, goesOn⟩ := inc_runs.modify_row hrow hload hstore
    exact ⟨opcode, v + 1, u, _, BitVec.toNat_add v 1, stored, setNZ_nzFrom _ _, goesOn⟩
  case dec =>
    obtain ⟨opcode, u, stored, goesOn⟩ := dec_runs.modify_row hrow hload hstore
    exact ⟨opcode, v - 1, u, _, toNat_sub_one v, stored, setNZ_nzFrom _ _, goesOn⟩

theorem exec_inx (s : State) : exec .inx s = implied .inx (fun t => (t.setX (t.x + 1)).setP (setNZ (t.x + 1) t.p)) s :=
  rfl

theorem exec_iny (s : State) : exec .iny s = implied .iny (fun t => (t.setY (t.y + 1)).setP (setNZ (t.y + 1) t.p)) s :=
  rfl

theorem exec_dex (s : State) : exec .dex s = implied .dex (fun t => (t.setX (t.x - 1)).setP (setNZ (t.x - 1) t.p)) s :=
  rfl

theorem exec_dey (s : State) : exec .dey s = implied .dey (fun t => (t.setY (t.y - 1)).setP (setNZ (t.y - 1) t.p)) s :=
  rfl

/-- Settles O43: `setNZ` of the new byte gives the new P, and each completes at its base count. -/
theorem indexIncrementsWrap : Obligations.IndexIncrementsWrap := by
  intro s
  refine ⟨⟨s.x + 1, _, BitVec.toNat_add s.x 1, setNZ_nzFrom _ _, rfl, ?inx⟩,
    ⟨s.y + 1, _, BitVec.toNat_add s.y 1, setNZ_nzFrom _ _, rfl, ?iny⟩,
    ⟨s.x - 1, _, toNat_sub_one s.x, setNZ_nzFrom _ _, rfl, ?dex⟩,
    ⟨s.y - 1, _, toNat_sub_one s.y, setNZ_nzFrom _ _, rfl, ?dey⟩⟩
  case inx => exact exec_eq_next_of_implied (exec_inx s) rfl rfl
  case iny => exact exec_eq_next_of_implied (exec_iny s) rfl rfl
  case dex => exact exec_eq_next_of_implied (exec_dex s) rfl rfl
  case dey => exact exec_eq_next_of_implied (exec_dey s) rfl rfl

end Sys2Proof.Machine
end

section
/-! SUPPORT. The shifted and rotated byte in numbers, and the rows of the shifts and rotates (44_shift_rotate.md R128 to
R131). -/

namespace Sys2Proof.Machine

/-! ## The moved byte in numbers -/

theorem toNat_shiftLeft_one (b : Byte) : (b <<< 1).toNat = b.toNat * 2 % 256 := by
  rw [BitVec.toNat_shiftLeft, Nat.shiftLeft_eq, Nat.pow_one]

theorem toNat_shiftRight_one (b : Byte) : (b >>> 1).toNat = b.toNat / 2 := by
  rw [BitVec.toNat_ushiftRight, Nat.shiftRight_eq_div_pow, Nat.pow_one]

/-- The carry enters at bit 0, which the shift left leaves 0, so it is added (R130). -/
theorem toNat_rotateLeft (b : Byte) (c : Bool) :
    ((b <<< 1) ||| (if c then 0x01 else 0x00)).toNat = (b.toNat * 2 + c.toNat) % 256 := by
  have even : b.toNat * 2 % 256 = 2 ^ 1 * (b.toNat % 128) := by omega
  rw [BitVec.toNat_or, toNat_shiftLeft_one, even]
  cases c with
  | false => exact (Nat.or_zero _).trans even.symm
  | true =>
    calc 2 ^ 1 * (b.toNat % 128) ||| 1
      _ = 2 ^ 1 * (b.toNat % 128) + 1 := (Nat.two_pow_add_eq_or_of_lt (by decide) _).symm
      _ = (b.toNat * 2 + 1) % 256 := by omega

/-- The carry enters at bit 7, which the shift right leaves 0, so it is added (R131). -/
theorem toNat_rotateRight (b : Byte) (c : Bool) :
    ((if c then 0x80 else 0x00) ||| (b >>> 1)).toNat = c.toNat * 128 + b.toNat / 2 := by
  have half : b.toNat / 2 < 2 ^ 7 := by omega
  rw [BitVec.toNat_or, toNat_shiftRight_one]
  cases c with
  | false => simp
  | true => exact (Nat.two_pow_add_eq_or_of_lt half 1).symm

/-! ## Shifts and rotates -/

theorem setNZ_setFlag_c_nzcFrom (r : Byte) (c : Bool) (p : Byte) : NZCFrom r c p (setNZ r (setFlag .c c p)) := by
  refine ⟨by simp, by simp [beq_eq_decide], by simp, ?others⟩
  intro f hn hz hc
  simp [hn, hz, hc]

theorem asl_runs : RunsHandler .asl [(.acc, 0x0A), (.zp0, 0x06), (.zpx, 0x16), (.abs, 0x0E), (.abx, 0x1E)]
    (modify aslOp) := ⟨fun _ => rfl, fun _ => rfl, fun _ _ => rfl, by decide⟩

theorem lsr_runs : RunsHandler .lsr [(.acc, 0x4A), (.zp0, 0x46), (.zpx, 0x56), (.abs, 0x4E), (.abx, 0x5E)]
    (modify lsrOp) := ⟨fun _ => rfl, fun _ => rfl, fun _ _ => rfl, by decide⟩

theorem rol_runs : RunsHandler .rol [(.acc, 0x2A), (.zp0, 0x26), (.zpx, 0x36), (.abs, 0x2E), (.abx, 0x3E)]
    (modify rolOp) := ⟨fun _ => rfl, fun _ => rfl, fun _ _ => rfl, by decide⟩

theorem ror_runs : RunsHandler .ror [(.acc, 0x6A), (.zp0, 0x66), (.zpx, 0x76), (.abs, 0x6E), (.abx, 0x7E)]
    (modify rorOp) := ⟨fun _ => rfl, fun _ => rfl, fun _ _ => rfl, by decide⟩

/-- A row that moves the bit `c` out of the loaded byte goes on with the moved byte, whose number is `n`, stored, N and
Z of it, and C the bit (R97). -/
theorem RunsHandler.shift_row {f : Operand → Instr} {rows : List (Mode × Byte)} {g : ByteOp}
    (hf : RunsHandler f rows (modify g)) {m : Operand} {op : Byte} (hrow : (m.mode, op) ∈ rows) {s t : State} {v : Byte}
    (hload : load (resolve m s).opnd s = .next (v, t)) (hstore : ∀ r, ∃ u, store (resolve m s).opnd r t = .next u)
    {c : Bool} {n : Nat} (hflags : (g v s.p).2 = setNZ (g v s.p).1 (setFlag .c c s.p))
    (hmoved : (g v s.p).1.toNat = n) :
    opcodeOf (f m) = some op ∧ ∃ r u q, r.toNat = n ∧ Stored (resolve m s).opnd r t u ∧ NZCFrom r c s.p q ∧
      exec (f m) s = .next { u with p := q, cycles := cost (f m) m s } := by
  obtain ⟨opcode, u, stored, goesOn⟩ := hf.modify_row hrow hload hstore
  exact ⟨opcode, _, u, _, hmoved, stored, hflags ▸ setNZ_setFlag_c_nzcFrom _ c s.p, goesOn⟩

/-- Settles O44: each mnemonic by its rows, with the number of its moved byte. -/
theorem shiftsMoveOneBit : Obligations.ShiftsMoveOneBit := by
  intro m op s hmodify
  obtain ⟨v, t, hload, hstore⟩ := modify_ok hmodify
  exact ⟨v, t, load_iff_loaded.mp hload,
    fun hrow => asl_runs.shift_row hrow hload hstore rfl (toNat_shiftLeft_one v),
    fun hrow => lsr_runs.shift_row hrow hload hstore rfl (toNat_shiftRight_one v),
    fun hrow => rol_runs.shift_row hrow hload hstore rfl (toNat_rotateLeft v (flag .c s.p)),
    fun hrow => ror_runs.shift_row hrow hload hstore rfl (toNat_rotateRight v (flag .c s.p))⟩

end Sys2Proof.Machine
end

section
/-! SUPPORT. A branch target and the second pointer byte of JMP in numbers, the stack after a push and after a pull, and
what a pull finds after a push; then branches, jumps, calls and returns (45_branch_jump.md R132 to R143). -/

namespace Sys2Proof.Machine

/-! ## Words as numbers -/

theorem joinBytes_eq_ofNat (h l : Byte) : joinBytes h l = BitVec.ofNat 16 (h.toNat * 256 + l.toNat) := by
  apply BitVec.eq_of_toNat_eq
  rw [toNat_joinBytes, BitVec.toNat_ofNat]
  omega

/-- The halves of a word, in the numbers of R10. -/
theorem hiByte_mul_add_loByte (w : Word) : (hiByte w).toNat * 256 + (loByte w).toNat = w.toNat := by
  rw [toNat_hiByte, toNat_loByte, Nat.div_add_mod']

/-- The sign-extended offset is the signed number of its byte (R93). -/
theorem branchTarget_eq_ofInt (off : Byte) (s : State) :
    branchTarget off s = BitVec.ofInt 16 (s.pc.toNat + off.toInt) := by
  rw [BitVec.ofInt_add, BitVec.ofInt_natCast, BitVec.ofNat_toNat, BitVec.setWidth_eq]
  rfl

/-- The pointer of the high byte keeps the page and adds 1 within it (R90). -/
theorem secondPointer_eq_ofNat (ptr : Word) : (ptr &&& 0xFF00) ||| ((ptr + 1) &&& 0x00FF) =
    BitVec.ofNat 16 (ptr.toNat / 256 * 256 + (ptr.toNat + 1) % 256) := by
  have page : (ptr &&& 0xFF00).toNat = 2 ^ 8 * (ptr.toNat / 256) := (toNat_pageOf ptr).trans (Nat.mul_comm _ _)
  have low : ((ptr + 1) &&& 0x00FF).toNat = (ptr.toNat + 1) % 256 := by
    rw [BitVec.toNat_and, BitVec.toNat_add]
    exact (Nat.and_two_pow_sub_one_eq_mod _ 8).trans (by simp)
  apply BitVec.eq_of_toNat_eq
  rw [BitVec.toNat_or, page, low, ← Nat.two_pow_add_eq_or_of_lt (by omega), BitVec.toNat_ofNat]
  omega

/-! ## Branches -/

/-- An instruction of 2 cycles that branches ends where R132 says: the page test compares quotients by 256. -/
theorem branch_eq_afterBranch {i : Instr} (hi : baseCycles i = 2) (cond : Bool) (off : Byte) (s : State) :
    branch i cond off s = .next (afterBranch cond off s) := by
  rw [branch, finish_eq, pagePenalty_false, hi, Nat.add_zero]
  cases cond with
  | false => rfl
  | true =>
    have count : 2 + branchExtra true off s =
        if (branchTarget off s).toNat / 256 = s.pc.toNat / 256 then 3 else 4 := by
      simp only [branchExtra, if_true, bne_iff_ne, ne_eq, pageOf_eq_iff, ite_not]
      split <;> rfl
    rw [count, if_pos rfl, branchTarget_eq_ofInt]
    rfl

/-- Settles O45: each branch is `branch` on its flag, at a base count of 2. -/
theorem branchesTestTheirFlag : Obligations.BranchesTestTheirFlag := fun off s =>
  ⟨branch_eq_afterBranch rfl (!flag .c s.p) off s, rfl, branch_eq_afterBranch rfl (flag .c s.p) off s, rfl,
    branch_eq_afterBranch rfl (flag .z s.p) off s, rfl, branch_eq_afterBranch rfl (!flag .z s.p) off s, rfl,
    branch_eq_afterBranch rfl (flag .n s.p) off s, rfl, branch_eq_afterBranch rfl (!flag .n s.p) off s, rfl,
    branch_eq_afterBranch rfl (!flag .v s.p) off s, rfl, branch_eq_afterBranch rfl (flag .v s.p) off s, rfl⟩

/-! ## Jumps -/

/-- JMP goes on where its target is resolved, with PC there and its base count. -/
theorem exec_jmp_of_resolveJump {j : JumpOperand} {w : Word} {s t : State} (h : resolveJump j s = .next (w, t)) :
    exec (.jmp j) s = .next { t with pc := w, cycles := countOf (.jmp j) } := by
  rw [exec, execJmp, h, andThen_next, finish_eq, pagePenalty_false, baseCycles_eq_countOf_of_none rfl rfl]
  rfl

/-- Settles O46: the absolute target is the word itself, the indirect one is read in two Bus reads. -/
theorem jumpsGoToTheTarget : Obligations.JumpsGoToTheTarget := by
  intro w s
  refine ⟨exec_jmp_of_resolveJump rfl, rfl, rfl, ?indirect⟩
  intro second l t hlow hsecond
  obtain ⟨h, u, hhigh⟩ := busRead_ok.mp hsecond
  have target : resolveJump (.ind w) s = .next (BitVec.ofNat 16 (h.toNat * 256 + l.toNat), u) := by
    rw [resolveJump, secondPointer_eq_ofNat, hlow, andThen_next, hhigh, andThen_next, joinBytes_eq_ofNat]
  exact ⟨h, u, hhigh, exec_jmp_of_resolveJump target⟩

/-! ## The stack after pushes and pulls -/

/-- A word is pushed high byte first (R142, R149). -/
theorem pushWord_eq (w : Word) (s : State) :
    pushWord w s = { s with ram := ramPushed s.ram s.sp [hiByte w, loByte w], sp := s.sp - 2 } := by
  have down : s.sp - 2 = s.sp - 1 - 1 := sub_add_eq_sub_sub s.sp 1 1
  rw [down]
  rfl

/-- Two pulls raise SP by 2 (R143, R150). -/
theorem pulled_pulled (s : State) : pulled (pulled s) = s.setSp (s.sp + 2) :=
  congrArg s.setSp (BitVec.add_assoc s.sp 1 1)

/-- A word is pulled low byte first (R143, R150). -/
theorem pullWord_eq_ofNat (s : State) : pullWord s =
    BitVec.ofNat 16 ((memRead s.ram (0x100 + (s.sp + 2).toNat)).toNat * 256 +
      (memRead s.ram (0x100 + (s.sp + 1).toNat)).toNat) := by
  have up : s.sp + 2 = s.sp + 1 + 1 := (BitVec.add_assoc s.sp 1 1).symm
  rw [pullWord, joinBytes_eq_ofNat, up]
  rfl

/-! ## Calls and returns -/

theorem exec_jsr (w : Word) (s : State) :
    exec (.jsr w) s = implied (.jsr w) (fun t => (pushWord (t.pc - 1) t).setPc w) s := rfl

theorem exec_rts (s : State) :
    exec .rts s = implied .rts (fun t => (pulled (pulled t)).setPc (pullWord t + 1)) s := rfl

/-- Settles O47: the pushed word is PC − 1 by its halves, the pulled one is that of two bytes, plus 1. -/
theorem jsrAndRtsUseTheStack : Obligations.JsrAndRtsUseTheStack := by
  intro w s
  refine ⟨⟨hiByte (s.pc - 1), loByte (s.pc - 1), ?bytes, ?jsr⟩, rfl, rfl, ?rts⟩
  case bytes =>
    rw [hiByte_mul_add_loByte, BitVec.toNat_sub, Nat.add_comm]
    rfl
  case jsr =>
    rw [exec_eq_next_of_implied (exec_jsr w s) rfl rfl, pushWord_eq]
    rfl
  case rts =>
    rw [exec_eq_next_of_implied (exec_rts s) rfl rfl, pulled_pulled, pullWord_eq_ofNat, BitVec.ofNat_add _ 1]
    rfl

/-! ## What a pull finds after a push -/

theorem stackIndex_lt (sp : Byte) : stackIndex sp < 0x800 := by
  have bound := sp.isLt
  unfold stackIndex
  omega

theorem stackIndex_inj {sp sp' : Byte} : stackIndex sp = stackIndex sp' ↔ sp = sp' :=
  Nat.add_left_cancel_iff.trans BitVec.toNat_inj

/-- A pull finds what RAM and SP say. -/
theorem pullByte_congr {s t : State} (hram : t.ram = s.ram) (hsp : t.sp = s.sp) : pullByte t = pullByte s := by
  rw [pullByte, pullByte, hram, hsp]

theorem pullWord_congr {s t : State} (hram : t.ram = s.ram) (hsp : t.sp = s.sp) : pullWord t = pullWord s := by
  have second : pullByte (pulled t) = pullByte (pulled s) := pullByte_congr hram (congrArg (· + 1) hsp)
  rw [pullWord, pullWord, second, pullByte_congr hram hsp]

theorem pulled_push_sp (v : Byte) (s : State) : (pulled (push v s)).sp = s.sp := BitVec.sub_add_cancel s.sp 1

/-- Two pulls after two pushes: SP is as before (R142, R143). -/
theorem pulled_pulled_pushWord_sp (w : Word) (s : State) : (pulled (pulled (pushWord w s))).sp = s.sp := by
  rw [pulled_pulled, pushWord_eq]
  exact BitVec.sub_add_cancel s.sp 2

theorem pullByte_push {s : State} (hs : Memory.wf 0x800 s.ram = true) (v : Byte) : pullByte (push v s) = v := by
  have top : (push v s).sp + 1 = s.sp := BitVec.sub_add_cancel s.sp 1
  rw [pullByte, top]
  exact memRead_memWrite_same hs _ v

/-- The byte below the pushed one is the byte pushed before it: the indexes of SP and SP − 1 differ, also at SP = 0. -/
theorem pullByte_pulled_push_push {s : State} (hs : Memory.wf 0x800 s.ram = true) (v v' : Byte) :
    pullByte (pulled (push v' (push v s))) = v := by
  have top : (pulled (push v' (push v s))).sp + 1 = s.sp := by rw [pulled_push_sp]; exact BitVec.sub_add_cancel s.sp 1
  have other : stackIndex (s.sp - 1) ≠ stackIndex s.sp := by
    rw [ne_eq, stackIndex_inj, sub_eq_self]
    decide
  rw [pullByte, top]
  exact (memRead_memWrite_other (wf_memWrite hs (stackIndex_lt _) v) other v').trans (memRead_memWrite_same hs _ v)

theorem pullWord_pushWord {s : State} (hs : Memory.wf 0x800 s.ram = true) (w : Word) : pullWord (pushWord w s) = w := by
  have highPushed : Memory.wf 0x800 (push (hiByte w) s).ram = true := wf_memWrite hs (stackIndex_lt _) _
  rw [pullWord, pushWord, pullByte_pulled_push_push hs, pullByte_push highPushed, joinBytes_halves]

/-! ## Round trips -/

theorem exec_pha (s : State) : exec .pha s = implied .pha (fun t => push t.a t) s := rfl

theorem exec_pla (s : State) :
    exec .pla s = implied .pla (fun t => ((pulled t).setA (pullByte t)).setP (setNZ (pullByte t) t.p)) s := rfl

theorem exec_php (s : State) : exec .php s = implied .php (fun t => push (pushedByProgram t.p) t) s := rfl

theorem exec_plp (s : State) :
    exec .plp s = implied .plp (fun t => (pulled t).setP (pulledStatus (pullByte t))) s := rfl

/-- B and U are cleared in what is pulled, so forcing them in the pushed copy leaves no trace (R147, R148). -/
theorem pulledStatus_pushedByProgram (p : Byte) : pulledStatus (pushedByProgram p) = pulledStatus p := by
  apply flag_ext
  intro f
  simp only [flag_pulledStatus, flag_pushedByProgram]
  split <;> rfl

/-- `pulledStatus` gives the status byte that `PulledFrom` describes. -/
theorem pulledStatus_pulledFrom (b : Byte) : PulledFrom b (pulledStatus b) := by
  refine ⟨by simp, by simp, ?others⟩
  intro f hu hb
  simp [hu, hb]

section AfterPush

/-! `t` has the RAM and the SP of `s` after a push; its other registers are free. -/

variable {s t : State} (hs : Memory.wf 0x800 s.ram = true)
include hs

theorem exec_rts_after_pushWord {w : Word} (hram : t.ram = (pushWord w s).ram) (hsp : t.sp = (pushWord w s).sp) :
    ∃ u, exec .rts t = .next u ∧ u.pc = w + 1 ∧ u.sp = s.sp ∧ u.a = t.a ∧ u.p = t.p := by
  have word : pullWord t = w := (pullWord_congr hram hsp).trans (pullWord_pushWord hs w)
  have up : (pulled (pulled t)).sp = s.sp := (congrArg (· + 1 + 1) hsp).trans (pulled_pulled_pushWord_sp w s)
  exact ⟨_, exec_eq_next_of_implied (exec_rts t) rfl rfl, congrArg (· + 1) word, up, rfl, rfl⟩

theorem exec_pla_after_push {v : Byte} (hram : t.ram = (push v s).ram) (hsp : t.sp = (push v s).sp) :
    ∃ u, exec .pla t = .next u ∧ u.a = v ∧ u.sp = s.sp ∧ NZFrom v t.p u.p := by
  have byte : pullByte t = v := (pullByte_congr hram hsp).trans (pullByte_push hs v)
  have up : (pulled t).sp = s.sp := (congrArg (· + 1) hsp).trans (pulled_push_sp v s)
  exact ⟨_, exec_eq_next_of_implied (exec_pla t) rfl rfl, byte, up, byte ▸ setNZ_nzFrom _ t.p⟩

theorem exec_plp_after_push {v : Byte} (hram : t.ram = (push v s).ram) (hsp : t.sp = (push v s).sp) :
    ∃ u, exec .plp t = .next u ∧ u.sp = s.sp ∧ u.p = pulledStatus v := by
  have byte : pullByte t = v := (pullByte_congr hram hsp).trans (pullByte_push hs v)
  have up : (pulled t).sp = s.sp := (congrArg (· + 1) hsp).trans (pulled_push_sp v s)
  exact ⟨_, exec_eq_next_of_implied (exec_plp t) rfl rfl, up, congrArg pulledStatus byte⟩

end AfterPush

/-- Settles O52: the pull finds what was pushed, with the RAM and the SP that the push left. -/
theorem callsAndPushesReturn : Obligations.CallsAndPushesReturn := by
  intro s w b hs
  refine ⟨?call, ?accumulator, ?status⟩
  case call =>
    obtain ⟨u, rts, pc, sp, a, p⟩ := exec_rts_after_pushWord hs (w := s.pc - 1)
      (t := { (pushWord (s.pc - 1) s).setPc w with cycles := 6 }) rfl rfl
    have back : u.pc = s.pc := pc.trans (BitVec.sub_add_cancel s.pc 1)
    exact ⟨_, u, exec_eq_next_of_implied (exec_jsr w s) rfl rfl, rts, back, sp, a, p⟩
  case accumulator =>
    obtain ⟨u, pla, a, sp, flags⟩ := exec_pla_after_push hs (t := { push s.a s with a := b, cycles := 3 }) rfl rfl
    exact ⟨_, u, exec_eq_next_of_implied (exec_pha s) rfl rfl, pla, a, sp, flags⟩
  case status =>
    obtain ⟨u, plp, sp, p⟩ := exec_plp_after_push hs
      (t := { push (pushedByProgram s.p) s with p := b, cycles := 3 }) rfl rfl
    refine ⟨_, u, exec_eq_next_of_implied (exec_php s) rfl rfl, plp, sp, ?_⟩
    rw [p, pulledStatus_pushedByProgram]
    exact pulledStatus_pulledFrom s.p

end Sys2Proof.Machine
end

section
/-! SUPPORT. The stack, status-flag and system instructions (46_stack_flag_system.md R144 to R158) and the unknown
opcodes (40_dispatch.md R77), with the word a vector holds, the entry into an interrupt handler and the return
from it. -/

namespace Sys2Proof.Machine

/-! ## The stack discipline -/

/-- A push leaves every byte but the one at its stack index. -/
theorem memRead_push_other {s : State} (hs : Memory.wf 0x800 s.ram = true) (v : Byte) {k : Nat}
    (hk : k ≠ stackIndex s.sp) : memRead (push v s).ram k = memRead s.ram k := memRead_memWrite_other hs hk.symm v

/-- A pull undoes what the push did to SP, and the pushed byte stays in RAM. -/
theorem pulled_push (v : Byte) (s : State) : pulled (push v s) = (push v s).setSp s.sp :=
  congrArg (push v s).setSp (pulled_push_sp v s)

/-- Settles O22: push and pull are the Bus accesses at their stack address, and a push writes nothing else. -/
theorem stackDisciplinePushesDown : Obligations.StackDisciplinePushesDown := by
  intro v s hs
  exact ⟨push_is_busWrite v s, toNat_sub_one s.sp, rfl, pull_is_busRead s, pullByte_push hs v, pulled_push v s,
    fun _ hk => memRead_push_other hs v hk⟩

/-! ## The copies of P -/

theorem pushedByProgram_programCopy (p : Byte) : ProgramCopy p (pushedByProgram p) := by
  refine ⟨by simp, by simp, ?others⟩
  intro f hu hb
  simp [hu, hb]

theorem setFlag_oneFlag (f : Flag) (b : Bool) (p : Byte) : OneFlag f b p (setFlag f b p) := by
  refine ⟨by simp, ?others⟩
  intro g hg
  simp [hg]

/-! ## Pushing and pulling A and P -/

/-- Settles O48: each of the four completes at its base count with one push or one pull. -/
theorem stackInstructionsPushAndPull : Obligations.StackInstructionsPushAndPull := by
  intro s
  refine ⟨⟨?pha, rfl⟩, ⟨_, setNZ_nzFrom _ s.p, rfl, ?pla⟩, ⟨_, pushedByProgram_programCopy s.p, rfl, ?php⟩,
    ⟨_, pulledStatus_pulledFrom _, rfl, ?plp⟩⟩
  case pha => exact exec_eq_next_of_implied (exec_pha s) rfl rfl
  case pla => exact exec_eq_next_of_implied (exec_pla s) rfl rfl
  case php => exact exec_eq_next_of_implied (exec_php s) rfl rfl
  case plp => exact exec_eq_next_of_implied (exec_plp s) rfl rfl

/-! ## Flags, NOP and the unknown opcodes -/

/-- An instruction that only sets one flag completes at its base count with that flag set and no other changed. -/
theorem exec_sets_oneFlag {i : Instr} {f : Flag} {b : Bool} {s : State}
    (hexec : exec i s = implied i (fun t => t.setP (setFlag f b t.p)) s) (hm : operandOf i = none)
    (hi : wellFormed i = true) {op : Byte} (hop : opcodeOf i = some op) :
    ∃ q, OneFlag f b s.p q ∧ opcodeOf i = some op ∧ exec i s = .next { s with p := q, cycles := countOf i } :=
  ⟨_, setFlag_oneFlag f b s.p, hop, exec_eq_next_of_implied hexec hm hi⟩

theorem exec_unknown {op : Byte} (hop : op ∈ unknownOpcodes) (s : State) :
    exec (.unknown op) s = implied (.unknown op) (fun t => t) s := if_pos hop

/-- Settles O51: each flag instruction sets its flag in P; NOP and the unknown opcodes only report their cycles. -/
theorem flagInstructionsAndNops : Obligations.FlagInstructionsAndNops := by
  intro s
  refine ⟨exec_sets_oneFlag rfl rfl rfl rfl, exec_sets_oneFlag rfl rfl rfl rfl, exec_sets_oneFlag rfl rfl rfl rfl,
    exec_sets_oneFlag rfl rfl rfl rfl, exec_sets_oneFlag rfl rfl rfl rfl, exec_sets_oneFlag rfl rfl rfl rfl,
    exec_sets_oneFlag rfl rfl rfl rfl, ⟨rfl, ?nop⟩, ?unknown⟩
  case nop => exact exec_eq_next_of_implied (f := fun t => t) rfl rfl rfl
  case unknown =>
    intro op hop
    exact ⟨opcodeOf_unknown hop, exec_eq_next_of_implied (exec_unknown hop s) rfl (wellFormed_unknown_iff.mpr hop)⟩

/-! ## Taking an interrupt -/

/-- A word that can be read without an effect is what `Read16` reads. -/
theorem read16_of_wordAt {a w : Word} {s : State} (h : wordAt a s = some w) : read16 a s = .next (w, s) := by
  unfold wordAt at h
  split at h
  · next l h' hlow hhigh =>
    cases h
    rw [read16, busRead_of_peek hlow, andThen_next, busRead_of_peek hhigh, andThen_next]
  · cases h

/-- A byte of the PRG window is the cartridge's. -/
theorem peek_prg {a : Word} (ha : 0x8000 ≤ a.toNat) (s : State) : peek a s = prgAt s.mapper (a.toNat - 0x8000) := by
  rw [peek, busTarget_prg ha]

/-- A word of the PRG window, such as a vector, is the cartridge's, whatever the CPU, RAM and the PPU hold (R47). -/
theorem wordAt_congr_mapper {a : Word} (ha : 0x8000 ≤ a.toNat) (ha' : 0x8000 ≤ (a + 1).toNat) {s t : State}
    (hmapper : t.mapper = s.mapper) : wordAt a t = wordAt a s := by
  simp only [wordAt, peek_prg ha, peek_prg ha', hmapper]

/-- `s` after the entry into a handler at `w`: the address `ret` and the copy of P are pushed, and I is set. -/
def inHandler (w ret : Word) (copy : Byte) (s : State) : State :=
  ((push copy (pushWord ret s)).setP (setFlag .i true s.p)).setPc w

@[simp] theorem inHandler_ram (w ret : Word) (copy : Byte) (s : State) :
    (inHandler w ret copy s).ram = (push copy (pushWord ret s)).ram := rfl

@[simp] theorem inHandler_sp (w ret : Word) (copy : Byte) (s : State) :
    (inHandler w ret copy s).sp = (push copy (pushWord ret s)).sp := rfl

/-- The three bytes of the entry and where it leaves SP (R149, R188). -/
theorem inHandler_eq (w ret : Word) (copy : Byte) (s : State) : inHandler w ret copy s =
    { s with
      ram := ramPushed s.ram s.sp [hiByte ret, loByte ret, copy], sp := s.sp - 3
      p := setFlag .i true s.p, pc := w } := by
  have down : s.sp - 3 = s.sp - 2 - 1 := sub_add_eq_sub_sub s.sp 2 1
  have index : s.sp - 2 = s.sp - 1 - 1 := sub_add_eq_sub_sub s.sp 1 1
  rw [inHandler, pushWord_eq, down, index]
  rfl

@[simp] theorem inHandler_cpuSet (w ret : Word) (copy : Byte) (s : State) :
    (inHandler w ret copy s).cpuSet = s.cpuSet := by rw [inHandler_eq]

/-- Taking an interrupt through a vector of the PRG window whose word can be read: the pushes leave that word. -/
theorem enterInterrupt_of_wordAt {vector w : Word} (hv : 0x8000 ≤ vector.toNat) (hv' : 0x8000 ≤ (vector + 1).toNat)
    {s : State} (hw : wordAt vector s = some w) (ret : Word) (copy : Byte) :
    enterInterrupt vector ret copy s = .next (inHandler w ret copy s) := by
  have kept : wordAt vector ((push copy (pushWord ret s)).setP (setFlag .i true s.p)) = wordAt vector s :=
    wordAt_congr_mapper hv hv' (s := s) rfl
  rw [enterInterrupt, read16_of_wordAt (kept.trans hw), andThen_next, inHandler]

/-- BRK goes through the IRQ/BRK vector, whatever I is (R149). -/
theorem exec_brk_of_wordAt {s : State} {w : Word} (hw : wordAt 0xFFFE s = some w) :
    exec .brk s = .next ((inHandler w (s.pc + 1) (pushedByProgram s.p) s).setCycles 7) := by
  rw [exec, execBrk, irqVector, enterInterrupt_of_wordAt (by decide) (by decide) hw, andThen_next, finish_eq,
    pagePenalty_false, baseCycles_eq_countOf_of_none rfl rfl]
  rfl

/-- An IRQ with I clear goes through the IRQ/BRK vector (R186, R188). -/
theorem irqAction_of_wordAt {s : State} {w : Word} (hset : s.cpuSet = true) (hi : flag .i s.p = false)
    (hw : wordAt 0xFFFE s = some w) :
    irqAction s = .next ((inHandler w s.pc (pushedByInterrupt s.p) s).setCycles 7) := by
  rw [irqAction, hset, hi, irqVector, enterInterrupt_of_wordAt (by decide) (by decide) hw]
  rfl

/-- An IRQ with I set is dropped (R186). -/
theorem irqAction_masked {s : State} (hset : s.cpuSet = true) (hi : flag .i s.p = true) :
    irqAction s = .next (s.setCycles 0) := by
  simp [irqAction, hset, hi]

/-- Settles O49: the pushed word is PC + 1 by its halves, the copy that of `pushedByProgram`. -/
theorem brkTakesTheInterrupt : Obligations.BrkTakesTheInterrupt := by
  intro s w hw
  refine ⟨hiByte (s.pc + 1), loByte (s.pc + 1), pushedByProgram s.p, setFlag .i true s.p, ?bytes,
    pushedByProgram_programCopy s.p, setFlag_oneFlag .i true s.p, rfl, ?brk⟩
  case bytes =>
    rw [hiByte_mul_add_loByte, BitVec.toNat_add]
    rfl
  case brk =>
    rw [exec_brk_of_wordAt hw, inHandler_eq]
    rfl

/-! ## Returning from an interrupt -/

theorem exec_rti (s : State) : exec .rti s = implied .rti returnFromInterrupt s := rfl

/-- The return pulls one byte for P and two for PC. -/
theorem returnFromInterrupt_eq (s : State) : returnFromInterrupt s =
    { s with sp := s.sp + 3, p := pulledStatus (pullByte s), pc := pullWord (pulled s) } := by
  have up : s.sp + 3 = s.sp + 1 + 2 := (BitVec.add_assoc s.sp 1 2).symm
  rw [returnFromInterrupt, pulled_pulled, up]
  rfl

/-- Settles O50: the word above the pulled status byte is that of two bytes, low byte first. -/
theorem rtiRestoresStatusAndPc : Obligations.RtiRestoresStatusAndPc := by
  intro s
  refine ⟨_, pulledStatus_pulledFrom _, rfl, ?rti⟩
  have low : s.sp + 2 = s.sp + 1 + 1 := (BitVec.add_assoc s.sp 1 1).symm
  have high : s.sp + 3 = s.sp + 1 + 2 := (BitVec.add_assoc s.sp 1 2).symm
  rw [exec_eq_next_of_implied (exec_rti s) rfl rfl, returnFromInterrupt_eq, pullWord_eq_ofNat, low, high]
  rfl

/-! ## Round trips of interrupts -/

/-- The word above a pushed byte is the one that was on top before: its two indexes differ from that of SP. -/
theorem pullWord_pulled_push {s : State} (hs : Memory.wf 0x800 s.ram = true) (v : Byte) :
    pullWord (pulled (push v s)) = pullWord s := by
  have low : stackIndex (s.sp + 1) ≠ stackIndex s.sp := by
    rw [ne_eq, stackIndex_inj, add_eq_left]
    decide
  have high : stackIndex (s.sp + 1 + 1) ≠ stackIndex s.sp := by
    rw [ne_eq, stackIndex_inj, BitVec.add_assoc, add_eq_left]
    decide
  rw [pulled_push]
  exact congrArg₂ joinBytes (memRead_push_other hs v high) (memRead_push_other hs v low)

/-- RTI in the handler goes back to the pushed address, with SP as before the entry and the status byte of the pushed
copy (R150, R189). -/
theorem exec_rti_inHandler {s : State} (hs : Memory.wf 0x800 s.ram = true) (w ret : Word) (copy : Byte) (n : Nat) :
    ∃ u, exec .rti ((inHandler w ret copy s).setCycles n) = .next u ∧ u.pc = ret ∧ u.sp = s.sp ∧
      u.p = pulledStatus copy ∧ u.cpuSet = s.cpuSet := by
  have highPushed : Memory.wf 0x800 (push (hiByte ret) s).ram = true := wf_memWrite hs (stackIndex_lt _) _
  have pushed : Memory.wf 0x800 (pushWord ret s).ram = true := wf_memWrite highPushed (stackIndex_lt _) _
  have byte : pullByte ((inHandler w ret copy s).setCycles n) = copy :=
    (pullByte_congr (by simp) (by simp)).trans (pullByte_push pushed copy)
  have word : pullWord (pulled ((inHandler w ret copy s).setCycles n)) = ret :=
    calc pullWord (pulled ((inHandler w ret copy s).setCycles n))
      _ = pullWord (pulled (push copy (pushWord ret s))) := pullWord_congr (by simp [pulled]) (by simp [pulled])
      _ = pullWord (pushWord ret s) := pullWord_pulled_push pushed copy
      _ = ret := pullWord_pushWord hs ret
  have up : (inHandler w ret copy s).sp + 3 = s.sp := by
    rw [inHandler_eq]
    exact BitVec.sub_add_cancel s.sp 3
  refine ⟨_, exec_eq_next_of_implied (exec_rti _) rfl rfl, ?_⟩
  rw [returnFromInterrupt_eq]
  exact ⟨word, up, congrArg pulledStatus byte, inHandler_cpuSet w ret copy s⟩

/-- Settles O53: the return finds the address and the copy of P that the entry pushed; that of an IRQ has I set, so the
next IRQ is dropped. -/
theorem interruptsReturn : Obligations.InterruptsReturn := by
  intro s w hs hw
  refine ⟨?brk, ?irq⟩
  case brk =>
    obtain ⟨u, rti, pc, sp, p, -⟩ := exec_rti_inHandler hs w (s.pc + 1) (pushedByProgram s.p) 7
    refine ⟨_, u, exec_brk_of_wordAt hw, rti, pc, sp, ?_⟩
    rw [p, pulledStatus_pushedByProgram]
    exact pulledStatus_pulledFrom s.p
  case irq =>
    intro hset hi
    obtain ⟨u, rti, pc, sp, p, set⟩ := exec_rti_inHandler hs w s.pc (pushedByInterrupt s.p) 7
    have masked : flag .i u.p = true := by simp [p]
    refine ⟨_, u, irqAction_of_wordAt hset hi hw, rfl, rti, pc, sp, masked, by simp [p], by simp [p], ?others,
      irqAction_masked (set.trans hset) masked⟩
    intro f hfi hb hu
    simp [p, hfi, hb, hu]

end Sys2Proof.Machine
end

section
/-! SUPPORT. The actions of the host: each keeps the invariant, and so does every run of them (60_exceptions.md R193);
reset, IRQ and NMI by their next states and their faults (R186 to R188, 70_reset_and_hazards.md R199, R200). -/

namespace Sys2Proof.Machine

/-! ## The invariant along a run -/

/-- Taking an interrupt writes no flag of P but I (R188), so B and U stay 0 in the live P. -/
theorem enterInterrupt_inv {vector ret : Word} {copy : Byte} {s t : State} (hs : Inv s)
    (h : enterInterrupt vector ret copy s = .next t) : Inv t := by
  obtain ⟨hdata, hb, hu⟩ := inv_iff.mp hs
  have frame := enterInterrupt_cpuFrame h
  exact inv_iff.mpr
    ⟨enterInterrupt_dataWf hdata h, (frame.p .b (by decide)).trans hb, (frame.p .u (by decide)).trans hu⟩

/-- The invariant does not speak of the cycle count. -/
theorem Inv.setCycles {s : State} (hs : Inv s) (n : Nat) : Inv (s.setCycles n) := hs

theorem flag_zero (f : Flag) : flag f 0x00 = false := by simp [flag]

/-- Reset reads the vector, sets P to 0 and touches no memory (R199). -/
theorem resetAction_inv {s t : State} (hs : Inv s) (h : resetAction s = .next t) : Inv t := by
  obtain ⟨r, hr, h⟩ := andThen_eq_next.mp h
  cases h
  obtain ⟨hdata, -⟩ := inv_iff.mp (Inv.of_readLeaves hs (read16_next hr))
  exact inv_iff.mpr ⟨hdata.of_eq rfl rfl rfl, flag_zero .b, flag_zero .u⟩

theorem irqAction_inv {s t : State} (hs : Inv s) (h : irqAction s = .next t) : Inv t := by
  unfold irqAction at h
  split at h
  · cases h
  · split at h
    · cases h; exact hs.setCycles 0
    · obtain ⟨u, hu, h⟩ := andThen_eq_next.mp h
      cases h
      exact (enterInterrupt_inv hs hu).setCycles 7

theorem nmiAction_inv {s t : State} (hs : Inv s) (h : nmiAction s = .next t) : Inv t := by
  unfold nmiAction at h
  split at h
  · cases h
  · obtain ⟨u, hu, h⟩ := andThen_eq_next.mp h
    cases h
    exact (enterInterrupt_inv hs hu).setCycles 8

theorem setStatusAction_inv {s : State} (hs : Inv s) (v : Byte) : Inv (setStatusAction v s) := by
  obtain ⟨hdata, hflags⟩ := inv_iff.mp hs
  have hu := hdata.ppu
  exact inv_iff.mpr ⟨hdata.setPpu ⟨hu.vram, hu.oam, hu.palette, hu.vaddr⟩, hflags⟩

/-- Every action of R193 that goes on keeps the invariant; a step does by O7. -/
theorem perform_inv {a : HostAction} {s t : State} {r : Reply} (hs : Inv s) (h : a.perform s = .next (t, r)) :
    Inv t := by
  cases a with
  | reset => exact resetAction_inv hs (withCycles_next h).1
  | step => exact stepKeepsTheInvariant s t hs (withCycles_next h).1
  | irq => exact irqAction_inv hs (withCycles_next h).1
  | nmi => exact nmiAction_inv hs (withCycles_next h).1
  | render =>
    rw [perform_render] at h
    obtain ⟨f, -, h⟩ := andThen_eq_next.mp h
    cases h
    exact hs
  | setStatus v => cases h; exact setStatusAction_inv hs v

/-- Settles O9, by induction on the actions: each hands the invariant on to the rest of the run. -/
theorem hostRunsKeepTheInvariant : Obligations.HostRunsKeepTheInvariant := by
  intro hs
  induction hs with
  | nil => intro s t rs hinv h; cases h; exact hinv
  | cons a hs ih =>
    intro s t rs hinv h
    obtain ⟨r, hr, h⟩ := andThen_eq_next.mp h
    obtain ⟨q, hq, h⟩ := andThen_eq_next.mp h
    cases h
    exact ih r.1 q.1 q.2 (perform_inv hinv hr) hq

/-! ## Before the first reset -/

/-- Settles O6: each action looks at `cpuSet` before anything else. -/
theorem actionsBeforeResetFault : Obligations.ActionsBeforeResetFault := by
  intro s hset
  simp [step, irqAction, nmiAction, hset]

/-! ## Interrupts -/

/-- `pushedByInterrupt` gives the status byte that `InterruptCopy` describes. -/
theorem pushedByInterrupt_interruptCopy (p : Byte) : InterruptCopy p (pushedByInterrupt p) := by
  refine ⟨by simp, by simp, by simp, ?others⟩
  intro f hu hb hi
  simp [hu, hb, hi]

/-- An NMI goes through its own vector, whatever I is (R187, R188). -/
theorem nmiAction_of_wordAt {s : State} {w : Word} (hset : s.cpuSet = true) (hw : wordAt 0xFFFA s = some w) :
    nmiAction s = .next ((inHandler w s.pc (pushedByInterrupt s.p) s).setCycles 8) := by
  rw [nmiAction, hset, nmiVector, enterInterrupt_of_wordAt (by decide) (by decide) hw]
  rfl

/-- Settles O54: the pushed word is PC by its halves, the copy that of `pushedByInterrupt`, for both interrupts. -/
theorem irqAndNmiEnterTheHandler : Obligations.IrqAndNmiEnterTheHandler := by
  intro s w hset
  refine ⟨irqAction_masked hset, hiByte s.pc, loByte s.pc, pushedByInterrupt s.p, setFlag .i true s.p,
    hiByte_mul_add_loByte s.pc, pushedByInterrupt_interruptCopy s.p, setFlag_oneFlag .i true s.p, ?irq, ?nmi⟩
  case irq =>
    intro hi hw
    rw [irqAction_of_wordAt hset hi hw, inHandler_eq]
    rfl
  case nmi =>
    intro hw
    rw [nmiAction_of_wordAt hset hw, inHandler_eq]
    rfl

/-! ## Reset -/

/-- A byte of the PRG window that the mapper serves (R40, R53). -/
theorem busRead_prg_served {a : Word} {b : Byte} {s : State} (ha : 0x8000 ≤ a.toNat)
    (h : prgAt s.mapper (a.toNat - 0x8000) = some b) : busRead a s = .next (b, s) :=
  busRead_of_peek ((peek_prg ha s).trans h)

/-- A byte of the PRG window that the mapper rejects (R40, R53). -/
theorem busRead_prg_rejected {a : Word} {s : State} (ha : 0x8000 ≤ a.toNat)
    (h : prgAt s.mapper (a.toNat - 0x8000) = none) : busRead a s = .fault (.mapperOffset (a.toNat - 0x8000)) := by
  simp [busRead, busTarget_prg ha, readPrg, h]

/-- Settles O55: reset is the read of its vector, byte by byte, and the registers set to fixed values. -/
theorem resetSetsTheCpuRegistersOnly : Obligations.ResetSetsTheCpuRegistersOnly := by
  intro s
  refine ⟨?served, ?lowRejected, ?highRejected⟩
  case served =>
    intro w hw
    rw [resetAction, resetVector, read16_of_wordAt hw, andThen_next]
  case lowRejected =>
    intro hlow
    have low : busRead 0xFFFC s = .fault (.mapperOffset 0x7FFC) := busRead_prg_rejected (by decide) hlow
    rw [resetAction, read16, resetVector, low, andThen_fault, andThen_fault]
  case highRejected =>
    intro b hlow hhigh
    have low : busRead 0xFFFC s = .next (b, s) := busRead_prg_served (by decide) hlow
    have high : busRead (0xFFFC + 1) s = .fault (.mapperOffset 0x7FFD) := busRead_prg_rejected (by decide) hhigh
    rw [resetAction, read16, resetVector, low, andThen_next, high, andThen_fault, andThen_fault]

end Sys2Proof.Machine
end

section
/-! SUPPORT. The eight ports of the PPU as the CPU sees them (50_ppu_registers.md R159 to R171), by the register that an
address of the window leads to. -/

namespace Sys2Proof.Machine

/-! ## The ports of the window -/

/-- An address of register `k` leads to that register, at every repetition in the window (R39). -/
theorem PortAddress.target {k : Nat} {a : Word} (h : PortAddress k a) : busTarget a = .ppu (ppuRegOf k) := by
  obtain ⟨hlow, hhigh, rfl⟩ := h
  exact busTarget_ppu hlow hhigh

theorem PortAddress.read_eq {k : Nat} {a : Word} (h : PortAddress k a) (s : State) :
    busRead a s = ppuRead (ppuRegOf k) s := busRead_ppu h.target s

theorem PortAddress.write_eq {k : Nat} {a : Word} (h : PortAddress k a) (v : Byte) (s : State) :
    busWrite a v s = ppuWrite (ppuRegOf k) v s := busWrite_ppu h.target v s

/-- Settles O23: the read arm of register 2. -/
theorem statusReadResetsTheAddressLatch : Obligations.StatusReadResetsTheAddressLatch :=
  fun _ s ha => ha.read_eq s

/-- Settles O24: the write arms of registers 0, 1 and 3. -/
theorem controlMaskAndOamAddressStoreTheByte : Obligations.ControlMaskAndOamAddressStoreTheByte :=
  fun _ v s => ⟨fun ha => ha.write_eq v s, fun ha => ha.write_eq v s, fun ha => ha.write_eq v s⟩

/-- Settles O25: the OAM after the write reads as after any write to a canonical memory. -/
theorem oamDataWriteStoresAndAdvances : Obligations.OamDataWriteStoresAndAdvances := by
  intro a v s ha hoam
  exact ⟨ha.read_eq s, memWrite s.ppu.oam s.ppu.oamAddr.toNat v, s.ppu.oamAddr + 1, ha.write_eq v s,
    BitVec.toNat_add _ _, memRead_memWrite_same hoam _ v, fun _ hk => memRead_memWrite_other hoam hk.symm v⟩

/-! ## The scroll and the address latch -/

theorem scrollWrite_first {u : Ppu} (h : u.scrollSecond = false) (v : Byte) :
    scrollWrite v u = { u with scrollX := v, scrollSecond := true } := by
  simp [scrollWrite, h]

theorem scrollWrite_second {u : Ppu} (h : u.scrollSecond = true) (v : Byte) :
    scrollWrite v u = { u with scrollY := v, scrollSecond := false } := by
  simp [scrollWrite, h]

/-- Settles O26: the scroll latch chooses the byte, and ports 6 and 2 leave the latch. -/
theorem scrollWritesAlternate : Obligations.ScrollWritesAlternate := by
  intro a v s
  refine ⟨?first, ?second, ?address, ?status⟩
  case first =>
    intro ha hlatch
    rw [← scrollWrite_first hlatch]
    exact ha.write_eq v s
  case second =>
    intro ha hlatch
    rw [← scrollWrite_second hlatch]
    exact ha.write_eq v s
  case address =>
    intro ha t h
    cases (ha.write_eq v s).symm.trans h
    rfl
  case status =>
    intro ha t h
    cases (ha.read_eq s).symm.trans h
    rfl

/-- With the latch at the high byte, a PPUADDR write keeps the low byte; the mask of R167 clears bits 7 and 6 of `v`. -/
theorem toNat_addrWrite_high {u : Ppu} (h : u.addrHiNext = true) (v : Byte) :
    (addrWrite v u).vaddr.toNat = v.toNat % 0x40 * 256 + u.vaddr.toNat % 256 := by
  simp only [addrWrite, h, if_true, toNat_mask14, toNat_joinBytes, toNat_loByte]
  omega

/-- With the latch at the low byte, a PPUADDR write keeps the high byte, and the mask finds nothing to clear. -/
theorem toNat_addrWrite_low {u : Ppu} (h : u.addrHiNext = false) (hu : u.vaddr.toNat ≤ 0x3FFF) (v : Byte) :
    (addrWrite v u).vaddr.toNat = u.vaddr.toNat / 256 * 256 + v.toNat := by
  simp only [addrWrite, h, Bool.false_eq_true, if_false, toNat_mask14, toNat_joinBytes, toNat_hiByte]
  omega

/-- Settles O27: the new address in numbers, for each value of the latch. -/
theorem addressWritesFillTheHalvesInTurn : Obligations.AddressWritesFillTheHalvesInTurn :=
  fun _ v s ha hva => ⟨(addrWrite v s.ppu).vaddr, ha.write_eq v s, fun h => toNat_addrWrite_high h v,
    fun h => toNat_addrWrite_low h hva v⟩

/-! ## The ports with no register behind them -/

/-- Registers 0, 1, 3, 5 and 6 have no read port (R171). -/
theorem ppuRead_undefined {k : Nat} (hk : k = 0 ∨ k = 1 ∨ k = 3 ∨ k = 5 ∨ k = 6) (s : State) :
    ppuRead (ppuRegOf k) s = ppuUndefinedRead (ppuRegOf k) s := by
  obtain rfl | rfl | rfl | rfl | rfl := hk <;> rfl

/-- Settles O31: both arms of the policy, for the reads and for the write of register 2. -/
theorem undefinedPortsFollowThePolicy : Obligations.UndefinedPortsFollowThePolicy := by
  intro a v k s ha
  refine ⟨fun hk => ?reads, fun hk => ?write⟩
  case reads =>
    rw [ha.read_eq, ppuRead_undefined hk, ppuUndefinedRead]
    exact ⟨fun hps => by rw [hps], fun hps => by rw [hps]; rfl⟩
  case write =>
    subst hk
    have write : busWrite a v s = ppuUndefinedWrite .status s := ha.write_eq v s
    rw [write, ppuUndefinedWrite]
    exact ⟨fun hps => by rw [hps], fun hps => by rw [hps]⟩

/-! ## Where the VRAM address leads -/

section Targets

variable {ps : Params} {a : Word} (mode : MirrorMode)

/-- The pattern tables are the cartridge's CHR (R48). -/
theorem ppuTarget_chr (h : a.toNat < 0x2000) : ppuTarget ps mode a = .chr a.toNat := by
  simp [ppuTarget, h]

/-- The 32 palette bytes (R48). -/
theorem ppuTarget_palette (h : 0x3F00 ≤ a.toNat) (h' : a.toNat < 0x3F20) :
    ppuTarget ps mode a = .palette (palIndex a) := by
  simp [ppuTarget, show ¬ a.toNat < 0x2000 by omega, show ¬ a.toNat < 0x3000 by omega, Nat.not_lt.mpr h, h']

/-- The fold of R51 in numbers: the address modulo 32 from 0x3F00 on. -/
theorem paletteMirror_eq_ofNat (a : Word) :
    (0x3F00 + (a &&& 0x001F) : Word) = BitVec.ofNat 16 (0x3F00 + a.toNat % 0x20) := by
  have low : (a &&& 0x001F).toNat = a.toNat % 0x20 := by
    rw [BitVec.toNat_and]
    exact Nat.and_two_pow_sub_one_eq_mod _ 5
  apply BitVec.eq_of_toNat_eq
  rw [BitVec.toNat_add, low, BitVec.toNat_ofNat]
  rfl

/-- Under `hw_mirror` the palette is repeated up to the end of the address space (R51). -/
theorem ppuTarget_paletteMirror (h : 0x3F20 ≤ a.toNat) (h' : a.toNat < 0x4000) (hps : ps.unrouted = .hwMirror) :
    ppuTarget ps mode a = .palette (palIndex (BitVec.ofNat 16 (0x3F00 + a.toNat % 0x20))) := by
  simp [ppuTarget, show ¬ a.toNat < 0x2000 by omega, show ¬ a.toNat < 0x3000 by omega,
    show ¬ a.toNat < 0x3F00 by omega, Nat.not_lt.mpr h, h', hps, ← paletteMirror_eq_ofNat]

/-- Under `fault` the mirror of the palette leads nowhere (R51). -/
theorem ppuTarget_unrouted_paletteMirror (h : 0x3F20 ≤ a.toNat) (h' : a.toNat < 0x4000) (hps : ps.unrouted = .fault) :
    ppuTarget ps mode a = .unrouted := by
  simp [ppuTarget, show ¬ a.toNat < 0x2000 by omega, show ¬ a.toNat < 0x3000 by omega,
    show ¬ a.toNat < 0x3F00 by omega, Nat.not_lt.mpr h, h', hps]

/-- The two ranges of R51 under `fault`. -/
theorem ppuTarget_unrouted_of_fault
    (h : 0x3000 ≤ a.toNat ∧ a.toNat < 0x3F00 ∨ 0x3F20 ≤ a.toNat ∧ a.toNat < 0x4000) (hps : ps.unrouted = .fault) :
    ppuTarget ps mode a = .unrouted := by
  obtain ⟨hlow, hhigh⟩ | ⟨hlow, hhigh⟩ := h
  · exact ppuTarget_unrouted mode hlow hhigh hps
  · exact ppuTarget_unrouted_paletteMirror mode hlow hhigh hps

end Targets

/-! ## PPUDATA by the target of the VRAM address -/

section Data

variable {s : State}

theorem ppuDataRead_chr_served {off : Nat} {b : Byte} (h : ppuTarget s.params s.mapper.mirror s.ppu.vaddr = .chr off)
    (hb : chrAt s.mapper off = some b) :
    ppuDataRead s = .next (s.ppu.readBuf, s.setPpu (Ppu.advance { s.ppu with readBuf := b })) := by
  simp only [ppuDataRead, h, readChr, hb, andThen_next]

theorem ppuDataRead_chr_rejected {off : Nat} (h : ppuTarget s.params s.mapper.mirror s.ppu.vaddr = .chr off)
    (hnone : chrAt s.mapper off = none) : ppuDataRead s = .fault (.mapperOffset off) := by
  simp only [ppuDataRead, h, readChr, hnone, andThen_fault]

theorem ppuDataRead_vram {i : Nat} (h : ppuTarget s.params s.mapper.mirror s.ppu.vaddr = .vram i) :
    ppuDataRead s = .next (s.ppu.readBuf, s.setPpu (s.ppu.buffered i)) := by
  simp only [ppuDataRead, h, Ppu.buffered]

theorem ppuDataRead_palette {j : Nat} (h : ppuTarget s.params s.mapper.mirror s.ppu.vaddr = .palette j) :
    ppuDataRead s = .next (memRead s.ppu.palette j, s.setPpu s.ppu.advance) := by
  simp only [ppuDataRead, h]

theorem ppuDataRead_unrouted (h : ppuTarget s.params s.mapper.mirror s.ppu.vaddr = .unrouted) :
    ppuDataRead s = .fault (.ppuUnrouted s.ppu.vaddr) := by
  simp only [ppuDataRead, h]

variable (v : Byte)

theorem ppuDataWrite_chr {off : Nat} (h : ppuTarget s.params s.mapper.mirror s.ppu.vaddr = .chr off) :
    ppuDataWrite v s = .next (s.setPpu s.ppu.advance) := by
  simp only [ppuDataWrite, h]

theorem ppuDataWrite_vram {i : Nat} (h : ppuTarget s.params s.mapper.mirror s.ppu.vaddr = .vram i) :
    ppuDataWrite v s = .next (s.setPpu (s.ppu.stored i v)) := by
  simp only [ppuDataWrite, h, Ppu.stored]

theorem ppuDataWrite_palette {j : Nat} (h : ppuTarget s.params s.mapper.mirror s.ppu.vaddr = .palette j) :
    ppuDataWrite v s = .next (s.setPpu (Ppu.advance { s.ppu with palette := memWrite s.ppu.palette j v })) := by
  simp only [ppuDataWrite, h]

theorem ppuDataWrite_unrouted (h : ppuTarget s.params s.mapper.mirror s.ppu.vaddr = .unrouted) :
    ppuDataWrite v s = .fault (.ppuUnrouted s.ppu.vaddr) := by
  simp only [ppuDataWrite, h]

end Data

/-- The nametables, with their mirror up to 0x3EFF where `hw_mirror` routes it, lead to VRAM (R48, R51). -/
theorem ppuTarget_nametables {ps : Params} {a : Word} (mode : MirrorMode) (h : 0x2000 ≤ a.toNat)
    (h' : a.toNat < 0x3000 ∨ a.toNat < 0x3F00 ∧ ps.unrouted = .hwMirror) :
    ppuTarget ps mode a = .vram (ntIndex mode a) :=
  ppuTarget_vram mode h (by omega) (h'.imp_right And.right)

/-- Settles O29: one arm of the read for each range of the VRAM address. -/
theorem dataReadIsOneReadBehind : Obligations.DataReadIsOneReadBehind := by
  intro a s ha
  have read : busRead a s = ppuDataRead s := ha.read_eq s
  rw [read]
  exact ⟨fun h _ hb => ppuDataRead_chr_served (ppuTarget_chr _ h) hb,
    fun h hnone => ppuDataRead_chr_rejected (ppuTarget_chr _ h) hnone,
    fun h h' => ppuDataRead_vram (ppuTarget_nametables _ h h'),
    fun h h' => ppuDataRead_palette (ppuTarget_palette _ h h'),
    fun h h' hps => ppuDataRead_palette (ppuTarget_paletteMirror _ h h' hps),
    fun h hps => ppuDataRead_unrouted (ppuTarget_unrouted_of_fault _ h hps)⟩

/-- Settles O30: one arm of the write for each range of the VRAM address. -/
theorem dataWriteStoresAndAdvances : Obligations.DataWriteStoresAndAdvances := by
  intro a v s ha
  have write : busWrite a v s = ppuDataWrite v s := ha.write_eq v s
  rw [write]
  exact ⟨fun h => ppuDataWrite_chr v (ppuTarget_chr _ h),
    fun h h' => ppuDataWrite_vram v (ppuTarget_nametables _ h h'),
    fun h h' => ppuDataWrite_palette v (ppuTarget_palette _ h h'),
    fun h h' hps => ppuDataWrite_palette v (ppuTarget_paletteMirror _ h h' hps),
    fun h hps => ppuDataWrite_unrouted v (ppuTarget_unrouted_of_fault _ h hps)⟩

end Sys2Proof.Machine
end

section
/-! SUPPORT. The renderer (51_ppu_rendering.md R172 to R182): what the picture depends on, that it does not depend on what
the frame held before, and its pixels. -/

namespace Sys2Proof.Machine

/-! ## What the picture depends on -/

/-- All that the renderer reads of the state: CHR, VRAM, the palette, OAM and the two table bits of Control (R173). -/
structure SamePicture (s t : State) : Prop where
  chr : t.mapper.chr = s.mapper.chr
  chrRejects : t.mapper.chrRejects = s.mapper.chrRejects
  vram : t.ppu.vram = s.ppu.vram
  palette : t.ppu.palette = s.ppu.palette
  oam : t.ppu.oam = s.ppu.oam
  spriteTable : t.ppu.ctrl.getLsbD 3 = s.ppu.ctrl.getLsbD 3
  bgTable : t.ppu.ctrl.getLsbD 4 = s.ppu.ctrl.getLsbD 4

section Dependence

variable {s t : State} (h : SamePicture s t)
include h

theorem SamePicture.tilePixel_eq (base : Nat) (b : Byte) (x y : Nat) :
    tilePixel base b x y t.mapper = tilePixel base b x y s.mapper := by
  simp only [tilePixel, readChr, chrAt, h.chr, h.chrRejects]

theorem SamePicture.bgColour_eq (i x y : Nat) : bgColour t i x y = bgColour s i x y := by
  simp only [bgColour, h.tilePixel_eq, bgTableBase, attrSelect, bgPalette, h.vram, h.palette, h.bgTable]

theorem SamePicture.spritePixel_eq (n x y : Nat) (f : Frame) : spritePixel t n x y f = spritePixel s n x y f := by
  simp only [spritePixel, h.tilePixel_eq, spriteTableBase, spritePalette, h.oam, h.palette, h.spriteTable]

theorem SamePicture.render_eq : render t = render s := by
  have tiles : bgTile t = bgTile s := by funext i f; simp only [bgTile, h.bgColour_eq]
  have sprites : spriteTile t = spriteTile s := by funext n f; simp only [spriteTile, h.spritePixel_eq]
  simp only [render, renderInto, bgPass, spritePass, tiles, sprites]

end Dependence

/-- Settles O57: the seven equations are all that the renderer reads. -/
theorem renderDependsOnlyOnThePicture : Obligations.RenderDependsOnlyOnThePicture :=
  fun _ _ chr chrRejects vram palette oam spriteTable bgTable =>
    SamePicture.render_eq ⟨chr, chrRejects, vram, palette, oam, spriteTable, bgTable⟩

/-! ## The frame, pixel by pixel -/

/-- A frame of WIDTH × HEIGHT × 3 bytes (R182). -/
def FullFrame (f : Frame) : Prop := f.length = frameWidth * frameHeight * 3

theorem fullFrame_freshFrame : FullFrame freshFrame := List.length_replicate

theorem fullFrame_setPixel {f : Frame} (hf : FullFrame f) (x y : Nat) (c : Rgb) : FullFrame (setPixel x y c f) := by
  unfold setPixel
  split <;> simpa [FullFrame] using hf

/-- Three bytes set at a multiple of 3: those of that pixel are the colour's, those of every other one are as before. -/
theorem getD_set_three {f : Frame} {k : Nat} (hk : k * 3 + 2 < f.length) (c : Rgb) (j : Nat) :
    let g := ((f.set (k * 3) c.r).set (k * 3 + 1) c.g).set (k * 3 + 2) c.b
    (⟨g.getD (j * 3) 0, g.getD (j * 3 + 1) 0, g.getD (j * 3 + 2) 0⟩ : Rgb) =
      if k = j then c else ⟨f.getD (j * 3) 0, f.getD (j * 3 + 1) 0, f.getD (j * 3 + 2) 0⟩ := by
  dsimp only
  split
  · next heq =>
    subst heq
    simp [hk, show k * 3 < f.length by omega, show k * 3 + 1 < f.length by omega]
  · next hne =>
    simp (disch := omega) only [List.getD_eq_getElem?_getD, List.getElem?_set_ne]

/-- Two pixels of the frame have the same number exactly when they are the same. -/
theorem pixelNumber_eq_iff {x y px py : Nat} (hx : x < frameWidth) (hpx : px < frameWidth) :
    y * frameWidth + x = py * frameWidth + px ↔ x = px ∧ y = py := by
  unfold frameWidth at *
  omega

/-- A pixel after a pixel was set: the colour at that pixel, the old one elsewhere. -/
theorem framePixel_setPixel {f : Frame} (hf : FullFrame f) (x y : Nat) (c : Rgb) {px py : Nat}
    (hpx : px < frameWidth) (hpy : py < frameHeight) :
    framePixel (setPixel x y c f) px py = if x = px ∧ y = py then c else framePixel f px py := by
  by_cases hin : x < frameWidth ∧ y < frameHeight
  · have bytes : (y * frameWidth + x) * 3 + 2 < f.length := by
      unfold FullFrame frameWidth frameHeight at *
      omega
    simp only [← pixelNumber_eq_iff hin.1 hpx, setPixel, if_pos hin]
    exact getD_set_three bytes c _
  · rw [setPixel, if_neg hin, if_neg]
    rintro ⟨rfl, rfl⟩
    exact hin ⟨hpx, hpy⟩

/-- Full frames with the same pixels are the same frame: every byte is one of the three of a pixel. -/
theorem FullFrame.ext {f g : Frame} (hf : FullFrame f) (hg : FullFrame g)
    (h : ∀ px py, px < frameWidth → py < frameHeight → framePixel f px py = framePixel g px py) : f = g := by
  refine List.ext_getElem (hf.trans hg.symm) fun i hi hi' => ?_
  obtain ⟨k, hk⟩ : ∃ k, i = k * 3 ∨ i = k * 3 + 1 ∨ i = k * 3 + 2 := ⟨i / 3, by omega⟩
  have pixel := h (k % frameWidth) (k / frameWidth)
    (by unfold FullFrame frameWidth frameHeight at *; omega) (by unfold FullFrame frameWidth frameHeight at *; omega)
  simp only [framePixel, Nat.div_add_mod', Rgb.mk.injEq, List.getD_eq_getElem?_getD] at pixel
  obtain ⟨hr, hg, hb⟩ := pixel
  obtain rfl | rfl | rfl := hk
  · simpa [hi, hi'] using hr
  · simpa [hi, hi'] using hg
  · simpa [hi, hi'] using hb

/-! ## What the frame held before -/

/-- Two outcomes are values that `R` relates, or the same fault, or the same refusal. -/
inductive SameOutcome {α : Type} (R : α → α → Prop) : Result α → Result α → Prop
  | next {x y : α} (h : R x y) : SameOutcome R (.next x) (.next y)
  | fault (e : Fault) : SameOutcome R (.fault e) (.fault e)
  | refused (e : Refusal) : SameOutcome R (.refused e) (.refused e)

namespace SameOutcome

variable {α β : Type} {R : α → α → Prop} {Q : β → β → Prop} {r r' : Result α}

theorem refl (hR : ∀ x, R x x) (r : Result α) : SameOutcome R r r := by
  cases r with
  | next x => exact .next (hR x)
  | fault e => exact .fault e
  | refused e => exact .refused e

/-- Where the related values are equal, so are the outcomes. -/
theorem eq (h : SameOutcome R r r') (hR : ∀ x y, R x y → x = y) : r = r' := by
  cases h with
  | next h => rw [hR _ _ h]
  | fault e => rfl
  | refused e => rfl

/-- Two things in a row, on both sides: what the first relates, the second may use. -/
theorem bind {f f' : α → Result β} (h : SameOutcome R r r') (hf : ∀ x y, R x y → SameOutcome Q (f x) (f' y)) :
    SameOutcome Q (andThen r f) (andThen r' f') := by
  cases h with
  | next h => exact hf _ _ h
  | fault e => exact .fault e
  | refused e => exact .refused e

end SameOutcome

/-- Full frames that have the same colour at every pixel of `S`. -/
structure AgreeOn (S : Set (Nat × Nat)) (f g : Frame) : Prop where
  left : FullFrame f
  right : FullFrame g
  pixel : ∀ px py, px < frameWidth → py < frameHeight → (px, py) ∈ S → framePixel f px py = framePixel g px py

theorem AgreeOn.mono {S T : Set (Nat × Nat)} {f g : Frame} (h : AgreeOn S f g)
    (hT : ∀ px py, px < frameWidth → py < frameHeight → (px, py) ∈ T → (px, py) ∈ S) : AgreeOn T f g :=
  ⟨h.left, h.right, fun px py hx hy hp => h.pixel px py hx hy (hT px py hx hy hp)⟩

/-- Whatever two full frames agree on before `body`, it ends in the same fault on both, or they agree on that and on the
pixels of `D` after it: what they held at `D` is overwritten, and no pixel is coloured by what they held elsewhere. -/
def Overwrites (D : Set (Nat × Nat)) (body : Frame → Result Frame) : Prop :=
  ∀ S f g, AgreeOn S f g → SameOutcome (AgreeOn (S ∪ D)) (body f) (body g)

/-- Setting a pixel to a colour, or faulting, with no look at the frame. -/
theorem overwrites_setPixel (r : Result Rgb) (x y : Nat) :
    Overwrites {(x, y)} fun f => andThen r fun c => .next (setPixel x y c f) := by
  intro S f g h
  refine (SameOutcome.refl (R := Eq) (fun _ => rfl) r).bind ?_
  rintro c _ rfl
  refine .next ⟨fullFrame_setPixel h.left x y c, fullFrame_setPixel h.right x y c, fun px py hx hy hp => ?_⟩
  rw [framePixel_setPixel h.left x y c hx hy, framePixel_setPixel h.right x y c hx hy]
  split
  · rfl
  · next hne =>
    obtain hS | hD := hp
    · exact h.pixel px py hx hy hS
    · cases hD
      exact absurd ⟨rfl, rfl⟩ hne

/-- A loop overwrites what the rounds of it overwrite. -/
theorem overwrites_forEach {ns : List Nat} {D : Nat → Set (Nat × Nat)} {body : Nat → Frame → Result Frame}
    (h : ∀ n ∈ ns, Overwrites (D n) (body n)) : Overwrites {p | ∃ n ∈ ns, p ∈ D n} (forEach ns body) := by
  induction ns with
  | nil => exact fun S f g hfg => .next (hfg.mono fun px py _ _ hp => by simpa using hp)
  | cons n ns ih =>
    intro S f g hfg
    refine (h n List.mem_cons_self S f g hfg).bind fun f' g' hfg' => ?_
    have rest := ih (fun m hm => h m (List.mem_cons_of_mem n hm)) (S ∪ D n) f' g' hfg'
    rwa [show S ∪ {p | ∃ m ∈ n :: ns, p ∈ D m} = S ∪ D n ∪ {p | ∃ m ∈ ns, p ∈ D m} by
      ext p; simp [or_assoc]]

/-- The pixels of tile `i` of the 32 × 30 tiles of the background (R174). -/
def tilePixels (i : Nat) : Set (Nat × Nat) :=
  {p | ∃ y ∈ List.range 8, ∃ x ∈ List.range 8, p = (i % 32 * 8 + x, i / 32 * 8 + y)}

theorem overwrites_bgTile (s : State) (i : Nat) : Overwrites (tilePixels i) (bgTile s i) :=
  overwrites_forEach fun _ _ => overwrites_forEach fun _ _ => overwrites_setPixel _ _ _

/-- The background pass overwrites all of its 960 tiles. -/
theorem overwrites_bgPass (s : State) : Overwrites {p | ∃ i ∈ List.range 960, p ∈ tilePixels i} (bgPass s) := by
  unfold bgPass
  exact overwrites_forEach fun i _ => overwrites_bgTile s i

/-- Every pixel of the frame lies in one of the 960 tiles. -/
theorem exists_mem_tilePixels {px py : Nat} (hx : px < frameWidth) (hy : py < frameHeight) :
    ∃ i ∈ List.range 960, (px, py) ∈ tilePixels i := by
  unfold frameWidth frameHeight at *
  refine ⟨py / 8 * 32 + px / 8, List.mem_range.mpr (by omega), py % 8, List.mem_range.mpr (by omega), px % 8,
    List.mem_range.mpr (by omega), Prod.ext ?_ ?_⟩
  · dsimp only; omega
  · dsimp only; omega

/-- The background pass leaves nothing of the frame it was given. -/
theorem bgPass_eq_of_fullFrame (s : State) {f g : Frame} (hf : FullFrame f) (hg : FullFrame g) :
    bgPass s f = bgPass s g := by
  have before : AgreeOn ∅ f g := ⟨hf, hg, fun _ _ _ _ hp => hp.elim⟩
  refine SameOutcome.eq (overwrites_bgPass s ∅ f g before) fun f' g' h => ?_
  exact h.left.ext h.right fun px py hx hy => h.pixel px py hx hy (.inr (exists_mem_tilePixels hx hy))

/-- Settles O58: the two passes start from the same outcome of the background pass. -/
theorem renderOverwritesTheWholeFrame : Obligations.RenderOverwritesTheWholeFrame := by
  intro s f g hf hg
  rw [renderInto, renderInto, bgPass_eq_of_fullFrame s hf hg]

/-! ## The colour of one pixel -/

/-- `body` goes on from every full frame, and changes the colour of pixel (px, py) by `u`. -/
def PaintsPixel (px py : Nat) (u : Rgb → Rgb) (body : Frame → Result Frame) : Prop :=
  ∀ f, FullFrame f → ∃ g, body f = .next g ∧ FullFrame g ∧ framePixel g px py = u (framePixel f px py)

section Painting

variable {px py : Nat} {u w : Rgb → Rgb}

theorem PaintsPixel.bind {body body' : Frame → Result Frame} (h : PaintsPixel px py u body)
    (h' : PaintsPixel px py w body') : PaintsPixel px py (w ∘ u) fun f => andThen (body f) body' := by
  intro f hf
  obtain ⟨g, hg, hgf, hgu⟩ := h f hf
  obtain ⟨k, hk, hkf, hkw⟩ := h' g hgf
  exact ⟨k, by simp only [hg, andThen_next, hk], hkf, by rw [hkw, hgu, Function.comp_apply]⟩

theorem paintsPixel_id_next : PaintsPixel px py id fun f => .next f := fun f hf => ⟨f, rfl, hf, rfl⟩

variable {ns : List Nat} {body : Nat → Frame → Result Frame}

/-- A loop changes the pixel by its rounds, one after another. -/
theorem paintsPixel_forEach {v : Nat → Rgb → Rgb} (h : ∀ n ∈ ns, PaintsPixel px py (v n) (body n)) :
    PaintsPixel px py (fun c => ns.foldl (fun c n => v n c) c) (forEach ns body) := by
  induction ns with
  | nil => exact paintsPixel_id_next
  | cons n ns ih =>
    exact (h n List.mem_cons_self).bind (ih fun m hm => h m (List.mem_cons_of_mem n hm))

/-- A loop of which no round touches the pixel. -/
theorem paintsPixel_forEach_never (h : ∀ n ∈ ns, PaintsPixel px py id (body n)) :
    PaintsPixel px py id (forEach ns body) := by
  induction ns with
  | nil => exact paintsPixel_id_next
  | cons n ns ih => exact (h n List.mem_cons_self).bind (ih fun m hm => h m (List.mem_cons_of_mem n hm))

/-- A loop of which round `k` alone touches the pixel. -/
theorem paintsPixel_forEach_once {k : Nat} (hns : ns.Nodup) (hk : k ∈ ns) (hit : PaintsPixel px py u (body k))
    (miss : ∀ n ∈ ns, n ≠ k → PaintsPixel px py id (body n)) : PaintsPixel px py u (forEach ns body) := by
  induction ns with
  | nil => cases hk
  | cons n ns ih =>
    obtain ⟨hn, hns⟩ := List.nodup_cons.mp hns
    have missLater : ∀ m ∈ ns, m ≠ k → PaintsPixel px py id (body m) :=
      fun m hm => miss m (List.mem_cons_of_mem n hm)
    obtain rfl | hk := List.mem_cons.mp hk
    · exact hit.bind (paintsPixel_forEach_never fun m hm => missLater m hm (ne_of_mem_of_not_mem hm hn))
    · exact (miss n List.mem_cons_self (ne_of_mem_of_not_mem hk hn).symm).bind (ih hns hk missLater)

/-- Setting the pixel itself. -/
theorem paintsPixel_setPixel_same (hx : px < frameWidth) (hy : py < frameHeight) (c : Rgb) :
    PaintsPixel px py (fun _ => c) fun f => .next (setPixel px py c f) :=
  fun f hf => ⟨_, rfl, fullFrame_setPixel hf px py c, by rw [framePixel_setPixel hf px py c hx hy, if_pos ⟨rfl, rfl⟩]⟩

/-- Setting another pixel. -/
theorem paintsPixel_setPixel_other (hx : px < frameWidth) (hy : py < frameHeight) {x y : Nat}
    (h : ¬(x = px ∧ y = py)) (c : Rgb) : PaintsPixel px py id fun f => .next (setPixel x y c f) :=
  fun f hf => ⟨_, rfl, fullFrame_setPixel hf x y c, by rw [framePixel_setPixel hf x y c hx hy, if_neg h, id]⟩

/-- The 8 × 8 pixels of a tile, row by row. -/
def overTile (body : Nat → Nat → Frame → Result Frame) (f : Frame) : Result Frame :=
  forEach (List.range 8) (fun y g => forEach (List.range 8) (fun x h => body x y h) g) f

/-- A tile of which pixel (x₀, y₀) alone touches the pixel of the frame. -/
theorem paintsPixel_overTile_once {body : Nat → Nat → Frame → Result Frame} {x₀ y₀ : Nat} (hx₀ : x₀ < 8) (hy₀ : y₀ < 8)
    (hit : PaintsPixel px py u (body x₀ y₀))
    (miss : ∀ x y, x < 8 → y < 8 → ¬(x = x₀ ∧ y = y₀) → PaintsPixel px py id (body x y)) :
    PaintsPixel px py u (overTile body) := by
  refine paintsPixel_forEach_once List.nodup_range (List.mem_range.mpr hy₀) ?row fun y hy hne => ?otherRows
  case row =>
    refine paintsPixel_forEach_once List.nodup_range (List.mem_range.mpr hx₀) hit fun x hx hne => ?_
    exact miss x y₀ (List.mem_range.mp hx) hy₀ fun h => hne h.1
  case otherRows =>
    refine paintsPixel_forEach_never fun x hx => ?_
    exact miss x y (List.mem_range.mp hx) (List.mem_range.mp hy) fun h => hne h.2

/-- A tile that does not touch the pixel of the frame. -/
theorem paintsPixel_overTile_never {body : Nat → Nat → Frame → Result Frame}
    (miss : ∀ x y, x < 8 → y < 8 → PaintsPixel px py id (body x y)) : PaintsPixel px py id (overTile body) :=
  paintsPixel_forEach_never fun y hy => paintsPixel_forEach_never fun x hx =>
    miss x y (List.mem_range.mp hx) (List.mem_range.mp hy)

end Painting

/-! ## Tiles, palettes and flips in numbers -/

/-- Every CHR offset has a byte. -/
def ServesChr (m : Mapper) : Prop := ∀ off, off < 0x2000 → (chrAt m off).isSome = true

theorem readChr_of_servesChr {m : Mapper} (hm : ServesChr m) {off : Nat} (hoff : off < 0x2000) :
    readChr off m = .next (memRead m.chr off) := by
  have served : rejected off m.chrRejects = false := by simpa [chrAt] using hm off hoff
  simp [readChr, chrAt, served]

/-- A table base and a tile's 16 bytes stay inside CHR, so a served tile has the colour index of R176. -/
theorem tilePixel_of_servesChr {m : Mapper} (hm : ServesChr m) {base : Nat} (hbase : base ≤ 0x1000) (t : Byte)
    (x : Nat) {y : Nat} (hy : y < 8) : tilePixel base t x y m = .next (tileValue m base t x y) := by
  have ht := t.isLt
  rw [tilePixel, readChr_of_servesChr hm (by omega), andThen_next, readChr_of_servesChr hm (by omega), andThen_next,
    tileValue]

theorem bgTableBase_le (ctrl : Byte) : bgTableBase ctrl ≤ 0x1000 := by
  unfold bgTableBase
  split <;> omega

theorem spriteTableBase_le (ctrl : Byte) : spriteTableBase ctrl ≤ 0x1000 := by
  unfold spriteTableBase
  split <;> omega

/-- Two bits of a byte as a number. -/
theorem toNat_twoBits (b : Byte) (k : Nat) : (b.extractLsb' (2 * k) 2).toNat = b.toNat / 4 ^ k % 4 := by
  rw [BitVec.extractLsb'_toNat, Nat.shiftRight_eq_div_pow, Nat.pow_mul]

/-- The quadrant's two bits, chosen by the tile's column and row (R175), are those chosen by the pixel. -/
theorem attrSelect_eq_attributeAt (s : State) (px py : Nat) :
    attrSelect s.ppu (px / 8) (py / 8) = attributeAt s px py := by
  have index : 0x3C0 + py / 8 / 4 * 8 + px / 8 / 4 = 0x3C0 + py / 32 * 8 + px / 32 := by omega
  have column : px / 8 % 4 / 2 = px / 16 % 2 := by omega
  have row : py / 8 % 4 / 2 = py / 16 % 2 := by omega
  rw [attrSelect, attributeAt, index, column, row]
  obtain left | right := Nat.mod_two_eq_zero_or_one (px / 16)
  · obtain top | bottom := Nat.mod_two_eq_zero_or_one (py / 16)
    · rw [left, top]; exact toNat_twoBits _ 0
    · rw [left, bottom]; exact toNat_twoBits _ 2
  · obtain top | bottom := Nat.mod_two_eq_zero_or_one (py / 16)
    · rw [right, top]; exact toNat_twoBits _ 1
    · rw [right, bottom]; exact toNat_twoBits _ 3

theorem colourOf_eq_systemColour (e : Byte) : colourOf e = systemColour e := rfl

theorem bgPalette_eq (u : Ppu) (p v : Nat) :
    bgPalette u p v = memRead u.palette (if v = 0 then 0x00 else 4 * p + v) := by
  unfold bgPalette
  split <;> rfl

/-! ## The background -/

/-- Pixel (x, y) of tile `i` of the background: a round of `bgTile`. -/
def bgTilePixel (s : State) (i x y : Nat) (f : Frame) : Result Frame :=
  andThen (bgColour s i x y) fun c => .next (setPixel (i % 32 * 8 + x) (i / 32 * 8 + y) c f)

theorem bgTile_eq_overTile (s : State) (i : Nat) : bgTile s i = overTile (bgTilePixel s i) := rfl

theorem bgTilePixel_of_bgColour {s : State} {i x y : Nat} {c : Rgb} (h : bgColour s i x y = .next c) :
    bgTilePixel s i x y = fun f => .next (setPixel (i % 32 * 8 + x) (i / 32 * 8 + y) c f) := by
  funext f
  rw [bgTilePixel, h, andThen_next]

section Background

variable {s : State} (hs : ServesChr s.mapper) {px py : Nat} (hx : px < frameWidth) (hy : py < frameHeight)
include hs hx

/-- The tile that covers a pixel has the background's colour there. -/
theorem bgColour_eq_bgPixelAt : bgColour s (py / 8 * 32 + px / 8) (px % 8) (py % 8) = .next (bgPixelAt s px py) := by
  unfold frameWidth at hx
  have column : (py / 8 * 32 + px / 8) % 32 = px / 8 := by omega
  have row : (py / 8 * 32 + px / 8) / 32 = py / 8 := by omega
  rw [bgColour, tilePixel_of_servesChr hs (bgTableBase_le _) _ _ (Nat.mod_lt _ (by decide)), andThen_next, column, row,
    attrSelect_eq_attributeAt, bgPalette_eq]
  rfl

include hy

theorem paintsPixel_bgTilePixel_same :
    PaintsPixel px py (fun _ => bgPixelAt s px py) (bgTilePixel s (py / 8 * 32 + px / 8) (px % 8) (py % 8)) := by
  have column : (py / 8 * 32 + px / 8) % 32 * 8 + px % 8 = px := by unfold frameWidth at hx; omega
  have row : (py / 8 * 32 + px / 8) / 32 * 8 + py % 8 = py := by unfold frameWidth at hx; omega
  rw [bgTilePixel_of_bgColour (bgColour_eq_bgPixelAt hs hx), column, row]
  exact paintsPixel_setPixel_same hx hy _

theorem paintsPixel_bgTilePixel_other {i x y : Nat} (hy₈ : y < 8) (h : ¬(i % 32 * 8 + x = px ∧ i / 32 * 8 + y = py)) :
    PaintsPixel px py id (bgTilePixel s i x y) := by
  obtain ⟨c, colour⟩ : ∃ c, bgColour s i x y = .next c := by
    rw [bgColour, tilePixel_of_servesChr hs (bgTableBase_le _) _ _ hy₈]
    exact ⟨_, rfl⟩
  rw [bgTilePixel_of_bgColour colour]
  exact paintsPixel_setPixel_other hx hy h _

/-- Of the 960 tiles the one that covers the pixel sets it, and of that tile's pixels the one there (R174). -/
theorem paintsPixel_bgPass : PaintsPixel px py (fun _ => bgPixelAt s px py) (bgPass s) := by
  unfold bgPass
  have inFrame : py / 8 * 32 + px / 8 < 960 := by unfold frameWidth frameHeight at *; omega
  refine paintsPixel_forEach_once List.nodup_range (List.mem_range.mpr inFrame) ?covering fun i _ hne => ?otherTiles
  case covering =>
    rw [bgTile_eq_overTile]
    refine paintsPixel_overTile_once (Nat.mod_lt _ (by decide)) (Nat.mod_lt _ (by decide))
      (paintsPixel_bgTilePixel_same hs hx hy) fun x y hx₈ hy₈ hne => ?_
    exact paintsPixel_bgTilePixel_other hs hx hy hy₈ (by unfold frameWidth at hx; omega)
  case otherTiles =>
    rw [bgTile_eq_overTile]
    refine paintsPixel_overTile_never fun x y hx₈ hy₈ => ?_
    exact paintsPixel_bgTilePixel_other hs hx hy hy₈ (by unfold frameWidth at hx; omega)

end Background

/-! ## The sprites -/

/-- The left edge of sprite `n`, byte 3 of its OAM entry (R179). -/
def spriteLeft (s : State) (n : Nat) : Nat := (memRead s.ppu.oam (4 * n + 3)).toNat

/-- The top edge of sprite `n`, byte 0 of its OAM entry (R179). -/
def spriteTop (s : State) (n : Nat) : Nat := (memRead s.ppu.oam (4 * n)).toNat

/-- Byte 2 of the OAM entry of sprite `n`: its flips and its palette (R180, R181). -/
def spriteAttr (s : State) (n : Nat) : Byte := memRead s.ppu.oam (4 * n + 2)

/-- The colour index of pixel (x, y) of the tile of sprite `n`. -/
def spriteValue (s : State) (n x y : Nat) : Nat :=
  tileValue s.mapper (spriteTableBase s.ppu.ctrl) (memRead s.ppu.oam (4 * n + 1)) x y

/-- The colour of index `v` in the palette of sprite `n` (R181). -/
def spriteColour (s : State) (n v : Nat) : Rgb :=
  systemColour (memRead s.ppu.palette (0x10 + 4 * ((spriteAttr s n).toNat % 4) + v))

/-- `k` counted from the other end of eight, if `flipped` (R180). -/
def mirrored (flipped : Bool) (k : Nat) : Nat := if flipped then 7 - k else k

/-- The column of the tile of sprite `n` that is shown at column `px` of the frame. -/
def spriteColumn (s : State) (n px : Nat) : Nat := mirrored ((spriteAttr s n).getLsbD 6) (px - spriteLeft s n)

/-- The row of the tile of sprite `n` that is shown at row `py` of the frame. -/
def spriteRow (s : State) (n py : Nat) : Nat := mirrored ((spriteAttr s n).getLsbD 7) (py - spriteTop s n)

/-- Sprite `n` covers pixel (px, py) (R179). -/
def Covers (s : State) (n px py : Nat) : Prop :=
  spriteLeft s n ≤ px ∧ px < spriteLeft s n + 8 ∧ spriteTop s n ≤ py ∧ py < spriteTop s n + 8

/-- A flip is undone by the same flip: which of eight pixels from `start` on is put at `p`. -/
theorem add_mirrored_eq_iff {flipped : Bool} {start k p : Nat} (hk : k < 8) :
    start + mirrored flipped k = p ↔ (start ≤ p ∧ p < start + 8) ∧ k = mirrored flipped (p - start) := by
  cases flipped <;> simp only [mirrored, if_true, Bool.false_eq_true, if_false] <;> omega

theorem mirrored_lt {flipped : Bool} {k : Nat} (hk : k < 8) : mirrored flipped k < 8 := by
  unfold mirrored
  split <;> omega

/-- Bit 6 of a byte as a digit, as the picture's rule reads it. -/
theorem div_0x40_mod_two_eq_one_iff (b : Byte) : b.toNat / 0x40 % 2 = 1 ↔ b.getLsbD 6 = true := by
  rw [BitVec.getLsbD, Nat.testBit_eq_decide_div_mod_eq, decide_eq_true_iff]

/-- Bit 7 of a byte as its leading digit. -/
theorem div_0x80_eq_one_iff (b : Byte) : b.toNat / 0x80 = 1 ↔ b.getLsbD 7 = true := by
  have hb := b.isLt
  rw [BitVec.getLsbD, Nat.testBit_eq_decide_div_mod_eq, decide_eq_true_iff]
  omega

theorem spritePixelAt_of_covers {s : State} {n px py : Nat} (h : Covers s n px py) :
    spritePixelAt s n px py = if spriteValue s n (spriteColumn s n px) (spriteRow s n py) = 0 then none
      else some (spriteColour s n (spriteValue s n (spriteColumn s n px) (spriteRow s n py))) := by
  unfold spritePixelAt
  simp only [div_0x40_mod_two_eq_one_iff, div_0x80_eq_one_iff]
  exact if_pos h

theorem spritePixelAt_of_not_covers {s : State} {n px py : Nat} (h : ¬ Covers s n px py) :
    spritePixelAt s n px py = none := if_neg h

theorem spriteTile_eq_overTile (s : State) (n : Nat) : spriteTile s n = overTile (spritePixel s n) := rfl

/-- A pixel of a served sprite: index 0 is transparent, and the flip moves the destination (R179, R180). -/
theorem spritePixel_of_servesChr {s : State} (hs : ServesChr s.mapper) (n x : Nat) {y : Nat} (hy : y < 8) :
    spritePixel s n x y = fun f => if spriteValue s n x y = 0 then .next f else
      .next (setPixel (spriteLeft s n + mirrored ((spriteAttr s n).getLsbD 6) x)
        (spriteTop s n + mirrored ((spriteAttr s n).getLsbD 7) y) (spriteColour s n (spriteValue s n x y)) f) := by
  funext f
  have colour (v : Nat) :
      colourOf (spritePalette s.ppu ((spriteAttr s n).extractLsb' 0 2).toNat v) = spriteColour s n v := by
    rw [colourOf_eq_systemColour, spritePalette, toNat_twoBits _ 0, Nat.pow_zero, Nat.div_one, spriteColour]
  rw [spritePixel, tilePixel_of_servesChr hs (spriteTableBase_le _) _ _ hy, andThen_next]
  simp only [← colour]
  rfl

/-- Run from the back, the last entry that has a colour is the first one in front. -/
theorem foldl_reverse_getD (g : Nat → Option Rgb) (ns : List Nat) (c : Rgb) :
    ns.reverse.foldl (fun c n => (g n).getD c) c = (ns.findSome? g).getD c := by
  rw [List.foldl_reverse]
  induction ns with
  | nil => rfl
  | cons n ns ih =>
    rw [List.foldr_cons, List.findSome?_cons, ih]
    cases g n <;> rfl

/-- The picture's rule as the sprite pass runs it: over the background, from entry 63 down to entry 0. -/
theorem pixelAt_eq_foldl (s : State) (px py : Nat) : pixelAt s px py =
    (List.range 64).reverse.foldl (fun c n => (spritePixelAt s n px py).getD c) (bgPixelAt s px py) := by
  rw [foldl_reverse_getD, pixelAt]
  cases (List.range 64).findSome? fun n => spritePixelAt s n px py <;> rfl

section Sprites

variable {s : State} (hs : ServesChr s.mapper) {px py : Nat} (hx : px < frameWidth) (hy : py < frameHeight)
include hs hx hy

theorem paintsPixel_spritePixel_other {n x y : Nat} (hx₈ : x < 8) (hy₈ : y < 8)
    (h : ¬(Covers s n px py ∧ x = spriteColumn s n px ∧ y = spriteRow s n py)) :
    PaintsPixel px py id (spritePixel s n x y) := by
  rw [spritePixel_of_servesChr hs n x hy₈]
  split
  · exact paintsPixel_id_next
  · refine paintsPixel_setPixel_other hx hy ?_ _
    rw [add_mirrored_eq_iff hx₈, add_mirrored_eq_iff hy₈]
    rintro ⟨⟨⟨hleft, hright⟩, hcolumn⟩, ⟨htop, hbottom⟩, hrow⟩
    exact h ⟨⟨hleft, hright, htop, hbottom⟩, hcolumn, hrow⟩

theorem paintsPixel_spritePixel_same {n : Nat} (h : Covers s n px py) :
    PaintsPixel px py (fun c => (spritePixelAt s n px py).getD c)
      (spritePixel s n (spriteColumn s n px) (spriteRow s n py)) := by
  obtain ⟨hleft, hright, htop, hbottom⟩ := id h
  have hx₈ : spriteColumn s n px < 8 := mirrored_lt (by omega)
  have hy₈ : spriteRow s n py < 8 := mirrored_lt (by omega)
  rw [spritePixelAt_of_covers h, spritePixel_of_servesChr hs n _ hy₈,
    (add_mirrored_eq_iff hx₈).mpr ⟨⟨hleft, hright⟩, rfl⟩, (add_mirrored_eq_iff hy₈).mpr ⟨⟨htop, hbottom⟩, rfl⟩]
  split
  · exact paintsPixel_id_next
  · exact paintsPixel_setPixel_same hx hy _

/-- A sprite puts its colour at a pixel where it covers it and is opaque there, and leaves it elsewhere (R179). -/
theorem paintsPixel_spriteTile (n : Nat) :
    PaintsPixel px py (fun c => (spritePixelAt s n px py).getD c) (spriteTile s n) := by
  rw [spriteTile_eq_overTile]
  by_cases h : Covers s n px py
  · obtain ⟨hleft, hright, htop, hbottom⟩ := id h
    refine paintsPixel_overTile_once (mirrored_lt (by omega)) (mirrored_lt (by omega))
      (paintsPixel_spritePixel_same hs hx hy h) fun x y hx₈ hy₈ hne => ?_
    exact paintsPixel_spritePixel_other hs hx hy hx₈ hy₈ fun hhit => hne hhit.2
  · rw [spritePixelAt_of_not_covers h]
    exact paintsPixel_overTile_never fun x y hx₈ hy₈ =>
      paintsPixel_spritePixel_other hs hx hy hx₈ hy₈ fun hhit => h hhit.1

/-- The sprite pass over the background pass: `pixelAt`, whatever the frame held. -/
theorem paintsPixel_renderInto : PaintsPixel px py (fun _ => pixelAt s px py) (renderInto s) := by
  have sprites : PaintsPixel px py _ (spritePass s) :=
    paintsPixel_forEach fun n _ => paintsPixel_spriteTile hs hx hy n
  unfold renderInto
  rw [pixelAt_eq_foldl]
  exact (paintsPixel_bgPass hs hx hy).bind sprites

end Sprites

/-- Settles O59: the renderer runs once, and each pixel of its frame is that of `pixelAt`. -/
theorem renderedPixelsAreTheFrontmostSprites : Obligations.RenderedPixelsAreTheFrontmostSprites := by
  intro s hs
  obtain ⟨f, hf, hfull, -⟩ :=
    paintsPixel_renderInto hs (px := 0) (py := 0) (by decide) (by decide) freshFrame fullFrame_freshFrame
  refine ⟨f, hf, hfull, fun px py hx hy => ?_⟩
  obtain ⟨g, hg, -, hpixel⟩ := paintsPixel_renderInto hs hx hy freshFrame fullFrame_freshFrame
  cases hf.symm.trans hg
  exact hpixel

end Sys2Proof.Machine
end
